-- ==== Sys2Proof/Word.lean ====
section
/-! DEFINITION. The widths of THE BLOCK (00_scope.md R11) and its two line names (R14). -/

namespace Sys2Proof

/-- A command word: 64 bits, bit 0 least significant (00_scope.md R11, R12; 30_encoding.md R71). -/
abbrev CmdWord := BitVec 64

/-- A byte on the bus, a register offset or a register value: 8 bits (00_scope.md R11). -/
abbrev Byte := BitVec 8

/-- A bus target's device address: 7 bits (00_scope.md R11). -/
abbrev Addr7 := BitVec 7

/-- An attempt budget or an attempt count: 32 bits, unsigned (00_scope.md R11; 10_state.md R32, R35). -/
abbrev Count := BitVec 32

/-- The argument of a delay: 32 bits, unsigned microseconds (00_scope.md R11). -/
abbrev Micros := BitVec 32

/-- A status register's value: 32 bits (00_scope.md R11). -/
abbrev StatusWord := BitVec 32

/-- A line level: `false` is 0 (low), `true` is 1 (high) (00_scope.md R14). -/
abbrev Level := Bool

/-- The two lines, standing for the pins `P_SCL_PIN` and `P_SDA_PIN` (00_scope.md R14). -/
inductive Line where
  | scl
  | sda
deriving DecidableEq, Repr

end Sys2Proof
end

