-- ==== Sys2Proof/Syntax.lean ====
section
/-! DEFINITION. The commands of THE BLOCK: one constructor for each row of spec/opcode_table.json
(30_encoding.md R73), and the assembler lines that stand for them (R77, R78). -/

namespace Sys2Proof

/-- The rows of the opcode map (30_encoding.md R73). -/
inductive Mnemonic where
  | driveSda | driveScl | start | stop | sendByte | writeReg | claimBus | releaseBus | bringup
deriving DecidableEq, Repr

/-- A command with its operands, each of its field's width (30_encoding.md R72, R73). Every term is well
formed: the types hold no value that a field cannot. -/
inductive Instr where
  /-- DRIVE_SDA, `level = c[4]` (40_bit_driver.md R102) -/
  | driveSda (level : Level)
  /-- DRIVE_SCL, `level = c[4]` (40_bit_driver.md R103) -/
  | driveScl (level : Level)
  /-- START (40_bit_driver.md R104) -/
  | start
  /-- STOP (40_bit_driver.md R105) -/
  | stop
  /-- SEND_BYTE, `value = c[15:8]` (40_bit_driver.md R106) -/
  | sendByte (value : Byte)
  /-- WRITE_REG, `addr7 = c[30:24]`, `reg = c[15:8]`, `value = c[23:16]`, `maxAttempts = c[63:32]`
  (41_transaction.md R130) -/
  | writeReg (addr7 : Addr7) (reg value : Byte) (maxAttempts : Count)
  /-- CLAIM_BUS (42_orchestrator.md R160) -/
  | claimBus
  /-- RELEASE_BUS (42_orchestrator.md R162) -/
  | releaseBus
  /-- BRINGUP (42_orchestrator.md R150) -/
  | bringup
deriving DecidableEq, Repr

/-- The row of the opcode map a command belongs to. -/
def Instr.mnemonic : Instr → Mnemonic
  | .driveSda _ => .driveSda
  | .driveScl _ => .driveScl
  | .start => .start
  | .stop => .stop
  | .sendByte _ => .sendByte
  | .writeReg _ _ _ _ => .writeReg
  | .claimBus => .claimBus
  | .releaseBus => .releaseBus
  | .bringup => .bringup

/-- An assembler line: the nine forms of 30_encoding.md R77, whose operands are numbers of any size (one
that does not fit is an assembly error: `Asm.wellFormed`), and the four pseudo-instructions of R78. -/
inductive Asm where
  /-- `sda.drive L` -/
  | sdaDrive (l : Nat)
  /-- `scl.drive L` -/
  | sclDrive (l : Nat)
  /-- `start` -/
  | start
  /-- `stop` -/
  | stop
  /-- `sendb B` -/
  | sendb (b : Nat)
  /-- `wreg A, R, V, N` -/
  | wreg (a r v n : Nat)
  /-- `claim` -/
  | claim
  /-- `release` -/
  | release
  /-- `bringup` -/
  | bringup
  /-- `sda.release`, for `sda.drive 1` -/
  | sdaRelease
  /-- `sda.low`, for `sda.drive 0` -/
  | sdaLow
  /-- `scl.release`, for `scl.drive 1` -/
  | sclRelease
  /-- `scl.low`, for `scl.drive 0` -/
  | sclLow
deriving DecidableEq, Repr

end Sys2Proof
end

