-- ==== Sys2Proof/WellFormed.lean ====
section
/-! DEFINITION. Which assembler lines are well formed: every operand fits its field; one that does not is
an assembly error, not a truncation (30_encoding.md R77). A term of `Instr` needs no check: its operands
have the widths of their fields. -/

namespace Sys2Proof

/-- A line level operand: L ∈ {0, 1} (30_encoding.md R77). -/
def fitsLevel (l : Nat) : Bool := decide (l ≤ 1)

/-- A byte operand: 0..0xFF (30_encoding.md R77). -/
def fitsByte (b : Nat) : Bool := decide (b ≤ 0xFF)

/-- A device address operand: 0..0x7F (30_encoding.md R77). -/
def fitsAddr7 (a : Nat) : Bool := decide (a ≤ 0x7F)

/-- An attempt budget operand: 0..2^32-1 (30_encoding.md R77). -/
def fitsCount (n : Nat) : Bool := decide (n ≤ 0xFFFFFFFF)

/-- Every operand of the line fits its field (30_encoding.md R77); the pseudo-instructions have none. -/
def Asm.wellFormed : Asm → Bool
  | .sdaDrive l => fitsLevel l
  | .sclDrive l => fitsLevel l
  | .start => true
  | .stop => true
  | .sendb b => fitsByte b
  | .wreg a r v n => fitsAddr7 a && fitsByte r && fitsByte v && fitsCount n
  | .claim => true
  | .release => true
  | .bringup => true
  | .sdaRelease => true
  | .sdaLow => true
  | .sclRelease => true
  | .sclLow => true

end Sys2Proof
end

