-- ==== Sys2Proof/Decode.lean ====
section
/-! DEFINITION. The command encoding of 30_encoding.md: the opcode map, the total decoder (R74), the
encoder (R71, R77) and the assembler (R77, R78). -/

namespace Sys2Proof

/-! ### The fields of a command word (30_encoding.md R71, R72) -/

/-- `max_attempts = c[63:32]` -/
def fieldAtt (c : CmdWord) : Count := c.extractLsb' 32 32
/-- `addr7 = c[30:24]` -/
def fieldAddr7 (c : CmdWord) : Addr7 := c.extractLsb' 24 7
/-- B1, `value = c[23:16]` -/
def fieldB1 (c : CmdWord) : Byte := c.extractLsb' 16 8
/-- B0, `byte = reg = c[15:8]` -/
def fieldB0 (c : CmdWord) : Byte := c.extractLsb' 8 8
/-- `level = c[4]` -/
def fieldLvl (c : CmdWord) : Level := c.getLsbD 4
/-- `OP = c[3:0]` -/
def fieldOp (c : CmdWord) : BitVec 4 := c.extractLsb' 0 4

/-! ### Decoding (30_encoding.md R73, R74) -/

/-- One row of the match and mask table of 30_encoding.md R73. -/
structure OpRow where
  mnemonic : Mnemonic
  pattern : CmdWord
  mask : CmdWord
deriving DecidableEq, Repr

/-- The match and mask table of 30_encoding.md R73. -/
def opcodeTable : List OpRow :=
  [ ⟨.driveSda,   0x0000000000000001#64, 0xFFFFFFFFFFFFFFEF#64⟩,
    ⟨.driveScl,   0x0000000000000002#64, 0xFFFFFFFFFFFFFFEF#64⟩,
    ⟨.start,      0x0000000000000003#64, 0xFFFFFFFFFFFFFFFF#64⟩,
    ⟨.stop,       0x0000000000000004#64, 0xFFFFFFFFFFFFFFFF#64⟩,
    ⟨.sendByte,   0x0000000000000005#64, 0xFFFFFFFFFFFF00FF#64⟩,
    ⟨.writeReg,   0x0000000000000006#64, 0x00000000800000FF#64⟩,
    ⟨.claimBus,   0x0000000000000007#64, 0xFFFFFFFFFFFFFFFF#64⟩,
    ⟨.releaseBus, 0x0000000000000008#64, 0xFFFFFFFFFFFFFFFF#64⟩,
    ⟨.bringup,    0x0000000000000009#64, 0xFFFFFFFFFFFFFFFF#64⟩ ]

/-- A word selects the row when `c & mask = match` (30_encoding.md R73). -/
def OpRow.selects (r : OpRow) (c : CmdWord) : Bool := decide (c &&& r.mask = r.pattern)

/-- The command of the row, its operands read from the word (30_encoding.md R72, R73). -/
def operandsOf (m : Mnemonic) (c : CmdWord) : Instr :=
  match m with
  | .driveSda => .driveSda (fieldLvl c)
  | .driveScl => .driveScl (fieldLvl c)
  | .start => .start
  | .stop => .stop
  | .sendByte => .sendByte (fieldB0 c)
  | .writeReg => .writeReg (fieldAddr7 c) (fieldB0 c) (fieldB1 c) (fieldAtt c)
  | .claimBus => .claimBus
  | .releaseBus => .releaseBus
  | .bringup => .bringup

/-- Why a word is illegal (60_exceptions.md R202): both reasons raise ILLEGAL_CMD (log 15). -/
inductive IllegalReason where
  /-- a reserved opcode, 0x0 or 0xA..0xF (30_encoding.md R75) -/
  | reservedOpcode
  /-- a nonzero bit in a field the opcode does not use (30_encoding.md R74) -/
  | unusedFieldNonzero
deriving DecidableEq, Repr

/-- What decoding a word gives. -/
inductive Decoded where
  | instr (i : Instr)
  | illegal (why : IllegalReason)
deriving DecidableEq, Repr

/-- The opcode selects a command: 0x1..0x9 (30_encoding.md R73, R75). -/
def opAssigned (op : BitVec 4) : Bool := decide (1 ≤ op.toNat ∧ op.toNat ≤ 9)

/-- The reason of a word that selects no row (60_exceptions.md R202). -/
def illegalReason (c : CmdWord) : IllegalReason :=
  if opAssigned (fieldOp c) then .unusedFieldNonzero else .reservedOpcode

/-- The total decoder: the first row that the word selects, else an illegal command
(30_encoding.md R74). -/
def decode (c : CmdWord) : Decoded :=
  match opcodeTable.find? (fun r => r.selects c) with
  | some r => .instr (operandsOf r.mnemonic c)
  | none => .illegal (illegalReason c)

/-- The command a decoding gave, if it gave one. -/
def Decoded.instr? : Decoded → Option Instr
  | .instr i => some i
  | .illegal _ => none

/-- What the decoder reads from the `nbits` bits `w` of an opcode-table row, numbered as the table
numbers them. The command port takes one whole 64-bit word, so no byte order arises
(20_memory.md R50, R55; log 17). -/
def decodeTableWord (nbits w : Nat) : Option Instr :=
  (decode (BitVec.ofNat 64 (w % 2 ^ nbits))).instr?

/-! ### Encoding (30_encoding.md R71, R77) -/

/-- The word with the given fields, RSV1 and RSV0 zero, laid out as 30_encoding.md R71 says. -/
def packCmd (att : Count) (addr7 : Addr7) (b1 b0 : Byte) (lvl : Level) (op : BitVec 4) : CmdWord :=
  att ++ 0#1 ++ addr7 ++ b1 ++ b0 ++ 0#3 ++ BitVec.ofBool lvl ++ op

/-- The opcode of a row: the OP column of 30_encoding.md R73. -/
def Mnemonic.opcode : Mnemonic → BitVec 4
  | .driveSda => 0x1#4
  | .driveScl => 0x2#4
  | .start => 0x3#4
  | .stop => 0x4#4
  | .sendByte => 0x5#4
  | .writeReg => 0x6#4
  | .claimBus => 0x7#4
  | .releaseBus => 0x8#4
  | .bringup => 0x9#4

/-- The word of a command: its fields and opcode, every field it does not use 0 (30_encoding.md R73). -/
def encode (i : Instr) : CmdWord :=
  match i with
  | .driveSda l => packCmd 0#32 0#7 0#8 0#8 l i.mnemonic.opcode
  | .driveScl l => packCmd 0#32 0#7 0#8 0#8 l i.mnemonic.opcode
  | .start => packCmd 0#32 0#7 0#8 0#8 false i.mnemonic.opcode
  | .stop => packCmd 0#32 0#7 0#8 0#8 false i.mnemonic.opcode
  | .sendByte v => packCmd 0#32 0#7 0#8 v false i.mnemonic.opcode
  | .writeReg a r v n => packCmd n a v r false i.mnemonic.opcode
  | .claimBus => packCmd 0#32 0#7 0#8 0#8 false i.mnemonic.opcode
  | .releaseBus => packCmd 0#32 0#7 0#8 0#8 false i.mnemonic.opcode
  | .bringup => packCmd 0#32 0#7 0#8 0#8 false i.mnemonic.opcode

/-! ### The assembler (30_encoding.md R77, R78) -/

/-- The command a line stands for, operands taken as their fields hold them; used on well-formed lines
only (`assemble`). The pseudo-instructions expand as 30_encoding.md R78 says. -/
def Asm.command : Asm → Instr
  | .sdaDrive l => .driveSda (decide (l = 1))
  | .sclDrive l => .driveScl (decide (l = 1))
  | .start => .start
  | .stop => .stop
  | .sendb b => .sendByte (BitVec.ofNat 8 b)
  | .wreg a r v n => .writeReg (BitVec.ofNat 7 a) (BitVec.ofNat 8 r) (BitVec.ofNat 8 v) (BitVec.ofNat 32 n)
  | .claim => .claimBus
  | .release => .releaseBus
  | .bringup => .bringup
  | .sdaRelease => .driveSda true
  | .sdaLow => .driveSda false
  | .sclRelease => .driveScl true
  | .sclLow => .driveScl false

/-- Assembling one line: the command, or none (an assembly error) where an operand does not fit
(30_encoding.md R77). -/
def assemble (a : Asm) : Option Instr := if a.wellFormed then some a.command else none

/-- The value of a digit in the given base, if it is one. -/
def digitValue (base : Nat) (ch : Char) : Option Nat :=
  let v : Option Nat :=
    if '0'.toNat ≤ ch.toNat ∧ ch.toNat ≤ '9'.toNat then some (ch.toNat - '0'.toNat)
    else if 'a'.toNat ≤ ch.toNat ∧ ch.toNat ≤ 'f'.toNat then some (ch.toNat - 'a'.toNat + 10)
    else if 'A'.toNat ≤ ch.toNat ∧ ch.toNat ≤ 'F'.toNat then some (ch.toNat - 'A'.toNat + 10)
    else none
  v.filter (fun d => decide (d < base))

/-- An unsigned number written in the given base; none for no digits or a character that is none. -/
def readDigits (base : Nat) : List Char → Option Nat
  | [] => none
  | ds => ds.foldl (fun acc ch => acc.bind fun n => (digitValue base ch).map (n * base + ·)) (some 0)

/-- An operand: decimal, or hexadecimal after `0x` (30_encoding.md R77). -/
def readNumber (cs : List Char) : Option Nat :=
  match cs with
  | '0' :: 'x' :: ds => readDigits 16 ds
  | ds => readDigits 10 ds

/-- The pieces of a text between the characters `sep`. -/
def splitAtChar (sep : Char) (cs : List Char) : List (List Char) :=
  cs.foldr (fun ch acc =>
    match acc with
    | [] => [[ch]]
    | w :: ws => if ch = sep then [] :: w :: ws else (ch :: w) :: ws) [[]]

/-- The line a mnemonic and its operands make (the syntax column of 30_encoding.md R77, R78), if any. -/
def Asm.ofParts (mnemonic : String) (operands : List Nat) : Option Asm :=
  match mnemonic, operands with
  | "sda.drive", [l] => some (.sdaDrive l)
  | "scl.drive", [l] => some (.sclDrive l)
  | "start", [] => some .start
  | "stop", [] => some .stop
  | "sendb", [b] => some (.sendb b)
  | "wreg", [a, r, v, n] => some (.wreg a r v n)
  | "claim", [] => some .claim
  | "release", [] => some .release
  | "bringup", [] => some .bringup
  | "sda.release", [] => some .sdaRelease
  | "sda.low", [] => some .sdaLow
  | "scl.release", [] => some .sclRelease
  | "scl.low", [] => some .sclLow
  | _, _ => none

/-- The text without blanks at its two ends. -/
def trimBlanks (cs : List Char) : List Char :=
  let left := cs.dropWhile (fun ch => decide (ch = ' '))
  (left.reverse.dropWhile (fun ch => decide (ch = ' '))).reverse

/-- Reading one line of text: the mnemonic up to the first blank, then operands between commas, blanks
around them dropped (30_encoding.md R77; blanks: log 19). -/
def parseLine (line : String) : Option Asm :=
  let cs := trimBlanks line.toList
  let mnemonic := String.ofList (cs.takeWhile (fun ch => decide (ch ≠ ' ')))
  let rest := trimBlanks (cs.dropWhile (fun ch => decide (ch ≠ ' ')))
  let operands :=
    if rest.isEmpty then some [] else (splitAtChar ',' rest).mapM (fun w => readNumber (trimBlanks w))
  operands.bind (Asm.ofParts mnemonic)

/-- The command word of one line of text; none is an assembly error (30_encoding.md R77). -/
def assembleLine (line : String) : Option CmdWord :=
  ((parseLine line).bind assemble).map encode

end Sys2Proof
end

