-- ==== Sys2Proof/Config.lean ====
section
/-! DEFINITION. The configuration of THE BLOCK (00_scope.md R8) with the check that makes it legal
(R8, R10; 20_memory.md R55, R57; 93_implementation_defined.md I15), and the free values: the
configuration a machine is built with, and the answers of the bus oracle (10_state.md R27). -/

namespace Sys2Proof

/-- A GPIO (bank, pin) pair (00_scope.md R8; the widths are not given: log 16). -/
structure GpioPin where
  bank : Nat
  index : Nat
deriving DecidableEq, Repr, Inhabited

/-- One memory-mapped write of the configuration: a 64-bit physical address and a 32-bit value
(20_memory.md R57; 00_scope.md R11). -/
structure MmioPair where
  addr : BitVec 64
  value : BitVec 32
deriving DecidableEq, Repr, Inhabited

/-- The implementation parameters, one field for each row of the table of 00_scope.md R8;
`P_HALF_US` is derived from `freqKhz` (R9) by `halfUs` in Machine/Operands.lean. -/
structure Params where
  /-- `P_SCL_PIN` -/
  sclPin : GpioPin
  /-- `P_SDA_PIN` -/
  sdaPin : GpioPin
  /-- `P_FREQ_KHZ` -/
  freqKhz : Nat
  /-- `P_BACKOFF_US` -/
  backoffUs : Micros
  /-- `P_CLAIM_SETTLE_US` -/
  claimSettleUs : Micros
  /-- `P_VSEL_SETTLE_US` -/
  vselSettleUs : Micros
  /-- `P_EN_SETTLE_US` -/
  enSettleUs : Micros
  /-- `P_CLK_SETTLE_US` -/
  clkSettleUs : Micros
  /-- `P_RST_SETTLE_US` -/
  rstSettleUs : Micros
  /-- `P_PMIC_ADDR7` -/
  pmicAddr7 : Addr7
  /-- `P_VSEL_REG` -/
  vselReg : Byte
  /-- `P_VSEL_VAL` -/
  vselVal : Byte
  /-- `P_EN_REG` -/
  enReg : Byte
  /-- `P_EN_VAL` -/
  enVal : Byte
  /-- `P_VSEL_ATTEMPTS` -/
  vselAttempts : Count
  /-- `P_EN_ATTEMPTS` -/
  enAttempts : Count
  /-- `P_CLK_WRITES`, in list order -/
  clkWrites : List MmioPair
  /-- `P_RST_WRITES`, in list order -/
  rstWrites : List MmioPair
deriving DecidableEq, Repr, Inhabited

/-- `v` lies in the closed range `lo..hi`. -/
def microsIn (lo hi : Nat) (v : Micros) : Bool := decide (lo ≤ v.toNat ∧ v.toNat ≤ hi)

/-- A memory-mapped address is a multiple of 4 (20_memory.md R55). -/
def MmioPair.aligned (w : MmioPair) : Bool := decide (w.addr.toNat % 4 = 0)

/-- What a configuration must satisfy or a model refuses to instantiate THE BLOCK: frequency 1..500
(00_scope.md R10), distinct pins, exactly three clock writes, at least one reset write, aligned
addresses (R8; 20_memory.md R55, R57; 93_implementation_defined.md I15). -/
def Params.instantiable (p : Params) : Bool :=
  decide (p.sclPin ≠ p.sdaPin) && decide (1 ≤ p.freqKhz) && decide (p.freqKhz ≤ 500)
    && decide (p.clkWrites.length = 3) && decide (1 ≤ p.rstWrites.length)
    && p.clkWrites.all MmioPair.aligned && p.rstWrites.all MmioPair.aligned

/-- The remaining legal ranges of the table of 00_scope.md R8 (92_eei_decisions.md D35). The ranges of
the 7-bit, 8-bit and 32-bit parameters are their widths. -/
def Params.inRanges (p : Params) : Bool :=
  microsIn 100 999 p.backoffUs && microsIn 10 99 p.claimSettleUs && microsIn 100 999 p.vselSettleUs
    && microsIn 500 5000 p.enSettleUs && microsIn 10 99 p.clkSettleUs
    && decide (1 ≤ p.rstSettleUs.toNat) && decide (1 ≤ p.vselAttempts.toNat)
    && decide (1 ≤ p.enAttempts.toNat)

/-- A legal configuration (00_scope.md R8, R10). -/
def Params.legal (p : Params) : Bool := p.instantiable && p.inRanges

/-- The example column of 00_scope.md R8 with the lists of 95_test_vectors.md §0: invented values for
test vectors, not the board's (92_eei_decisions.md D19). -/
def Params.sample : Params where
  sclPin := ⟨0, 0⟩
  sdaPin := ⟨0, 1⟩
  freqKhz := 100
  backoffUs := 100#32
  claimSettleUs := 10#32
  vselSettleUs := 100#32
  enSettleUs := 1000#32
  clkSettleUs := 10#32
  rstSettleUs := 10#32
  pmicAddr7 := 0x42#7
  vselReg := 0x10#8
  vselVal := 0x5A#8
  enReg := 0x11#8
  enVal := 0x80#8
  vselAttempts := 3#32
  enAttempts := 3#32
  clkWrites := [⟨0x1000#64, 0x11#32⟩, ⟨0x1004#64, 0x22#32⟩, ⟨0x1008#64, 0x33#32⟩]
  rstWrites := [⟨0x2000#64, 0x44#32⟩]

/-- FREE VALUE (log 2): the numbers the implementation fixes, which the spec leaves OPEN
(92_eei_decisions.md D19). No body: nothing can prove a value of it. -/
opaque Config.chosen : Params

/-- The configuration THE BLOCK is built with: `Config.chosen` where it is legal. An illegal one is
never instantiated (00_scope.md R10); the other branch only makes this a total definition whose value
is always some legal configuration (log 2). -/
def Config.params : Params := if Config.chosen.legal then Config.chosen else Params.sample

/-- FREE VALUE (log 4): the bus oracle's answer to the n-th draw, any bit, under no law
(10_state.md R27; 92_eei_decisions.md D9). No body. -/
opaque Config.busOracle : Nat → Level

end Sys2Proof
end

