-- ==== Sys2Proof/Machine/State.lean ====
section
/-! DEFINITION. The state of THE BLOCK (10_state.md R20) as plain data, the reasons a step stops, and the
state right after reset (10_state.md R43; 70_reset_and_hazards.md R230). -/

namespace Sys2Proof.Machine

/-! ### The two pins (10_state.md R23) -/

/-- A pin's function: its normal peripheral function or plain GPIO (10_state.md R23). -/
inductive PinFunc where
  | alt
  | gpio
deriving DecidableEq, Repr

/-- A pin direction that `GpioSetDir` can set (00_scope.md R13). -/
inductive Dir where
  | input
  | output
deriving DecidableEq, Repr

/-- What `pin[p].dir` holds: a direction, or ⊥, the value it has from reset until the first `GpioSetDir`
(10_state.md R23, R43; log 9). -/
inductive PinDir where
  | unspecified
  | dir (d : Dir)
deriving DecidableEq, Repr

/-- What `pin[p].latch` holds: an output level, or ⊥, the value it has from reset until the first
`GpioWrite` (10_state.md R23, R43; log 9). -/
inductive PinLatch where
  | unspecified
  | level (b : Level)
deriving DecidableEq, Repr

/-- One pin's three fields (10_state.md R23). -/
structure Pin where
  func : PinFunc
  dir : PinDir
  latch : PinLatch
deriving DecidableEq, Repr

/-! ### The registers (10_state.md R33 to R37) -/

/-- OUTCOME (10_state.md R33); the code 0b11, never written, has no constructor. -/
inductive TxOutcome where
  | none
  | success
  | failure
deriving DecidableEq, Repr

/-- STATE, the orchestrator state (10_state.md R34); the codes 9..15, never written, have no
constructor. -/
inductive OrchState where
  | idle
  | claimBus
  | programVoltage
  | programEnable
  | releaseBus
  | enableClocks
  | deassertResets
  | done
  | fatal
deriving DecidableEq, Repr

/-- FAULT (60_exceptions.md R201); the codes 0x04..0xFF, never raised, have no constructor. -/
inductive FaultCode where
  | none
  | illegalCmd
  | notClaimed
  | reentry
deriving DecidableEq, Repr

/-- One event of the trace `T` (10_state.md R40; 00_scope.md R13). -/
inductive Event where
  | setFunc (p : Line) (f : PinFunc)
  | setDir (p : Line) (d : Dir)
  | write (p : Line) (b : Level)
  | read (p : Line) (b : Level)
  | delay (n : Micros)
  | mmioWrite (addr : BitVec 64) (value : BitVec 32)
  | step (st : OrchState)
  | halt
deriving DecidableEq, Repr

/-! ### Working registers of a running command (10_state.md R31, R32; log 11)

They exist only while a command runs and are no part of the state between commands (R20, R43). -/

/-- The byte shifter, present only during a byte shift (10_state.md R31). -/
structure Shifter where
  /-- SHIFT -/
  shift : Byte
  /-- BITCNT, bits sent so far, 0..8 -/
  bitcnt : Nat
deriving DecidableEq, Repr

/-- The transaction registers, present only during a register write (10_state.md R32). -/
structure Transaction where
  /-- TADDR7 -/
  taddr7 : Addr7
  /-- TREG -/
  treg : Byte
  /-- TVAL -/
  tval : Byte
  /-- TMAX, the attempt budget -/
  tmax : Count
  /-- K, the attempts begun so far -/
  k : Count
deriving DecidableEq, Repr

/-! ### The state -/

/-- The state `S` of THE BLOCK between commands (10_state.md R20), and the model's own fields `cfg`,
`port`, `answers` and `reads`. -/
structure State where
  /-- MODEL'S OWN: the parameters of 00_scope.md R8, fixed for the lifetime of THE BLOCK (log 1) -/
  cfg : Params
  /-- pin[SCL] (10_state.md R23) -/
  scl : Pin
  /-- pin[SDA] (10_state.md R23) -/
  sda : Pin
  /-- LAST_ACK (10_state.md R33) -/
  lastAck : Bool
  /-- OUTCOME (10_state.md R33) -/
  outcome : TxOutcome
  /-- ATTEMPTS_USED (10_state.md R35) -/
  attemptsUsed : Count
  /-- STATE (10_state.md R34) -/
  orch : OrchState
  /-- FAULT (10_state.md R36, R37) -/
  faultCode : FaultCode
  /-- HALTED (10_state.md R36, R37) -/
  halted : Bool
  /-- T, oldest event first (10_state.md R40) -/
  trace : List Event
  /-- MODEL'S OWN: the words the host presents on the command port, oldest first (30_encoding.md R70;
  log 5) -/
  port : List CmdWord
  /-- MODEL'S OWN: the bus oracle's coming answers that a run fixes in advance, oldest first
  (10_state.md R27; log 4) -/
  answers : List Level
  /-- MODEL'S OWN: how many answers were drawn, the argument of `Config.busOracle` (log 4) -/
  reads : Nat
deriving DecidableEq, Repr

/-! ### Why a step stops -/

/-- The reasons a step ends in a fault outcome. The spec's own faults (ILLEGAL_CMD, NOT_CLAIMED, REENTRY)
are not here: they are next states with FAULT written (60_exceptions.md R200; log 8). -/
inductive Fault where
  /-- Raised by `step` when FAULT ≠ 0: no command is accepted and THE BLOCK has no step until reset
  (60_exceptions.md R205, R208; log 7). Safe: the hardware stops there too. -/
  | stoppedByFault
  /-- Raised by `step` when HALTED = 1: after the fatal halt THE BLOCK has no step until reset
  (60_exceptions.md R205; 42_orchestrator.md R171; log 7). Safe: the hardware stops there too. -/
  | stoppedByHalt
deriving DecidableEq, Repr

/-- The reasons for which the model gives no meaning. -/
inductive Refusal where
  /-- Raised by a dispatch arm of an instruction that has no meaning yet; no arm raises it. Safe. -/
  | notModelled (mnemonic : String)
  /-- Raised by `instantiate` for an illegal configuration, for which no run exists (00_scope.md R10;
  93_implementation_defined.md I15; log 3). Safe. -/
  | illegalConfiguration
deriving DecidableEq, Repr

/-! ### Reset -/

/-- A pin at reset: its peripheral function, direction and latch ⊥ (10_state.md R43). -/
def Pin.atReset : Pin := ⟨.alt, .unspecified, .unspecified⟩

/-- The state right after reset of THE BLOCK with the configuration `p` (10_state.md R43;
70_reset_and_hazards.md R230), with nothing presented on the port and every answer free. -/
def State.resetWith (p : Params) : State where
  cfg := p
  scl := Pin.atReset
  sda := Pin.atReset
  lastAck := false
  outcome := .none
  attemptsUsed := 0#32
  orch := .idle
  faultCode := .none
  halted := false
  trace := []
  port := []
  answers := []
  reads := 0

/-- The machine right after reset (70_reset_and_hazards.md R230), in the configuration it was built with
(log 2). -/
def State.reset : State := State.resetWith Config.params

end Sys2Proof.Machine
end

