-- ==== Sys2Proof/Machine/Operands.lean ====
section
/-! DEFINITION. Values the commands compute from operands, configuration and pins: the half period
(00_scope.md R9), the address byte (41_transaction.md R131), a pin's contribution and a line's level
(10_state.md R24 to R26), the bus oracle's next answer (R27). -/

namespace Sys2Proof.Machine

/-- `P_HALF_US = floor(500 / P_FREQ_KHZ)`, a number of microseconds (00_scope.md R9). -/
def halfUs (p : Params) : Micros := BitVec.ofNat 32 (500 / p.freqKhz)

/-- The address byte: the 7-bit address above a write bit 0 (41_transaction.md R131). -/
def addressByte (a : Addr7) : Byte := a ++ 0#1

/-- The bit of SHIFT that goes on the bus when BITCNT bits are sent: most significant first
(20_memory.md R52; 40_bit_driver.md R106, R107). -/
def Shifter.currentBit (sh : Shifter) : Level := sh.shift.getLsbD (7 - sh.bitcnt)

/-- The pin of a line. -/
def State.pin (s : State) (p : Line) : Pin :=
  match p with
  | .scl => s.scl
  | .sda => s.sda

/-- The bus is CLAIMED: both pins are in GPIO function (10_state.md R24). -/
def State.claimed (s : State) : Bool := decide (s.scl.func = .gpio ∧ s.sda.func = .gpio)

/-- THE BLOCK's contribution to a line (10_state.md R25). -/
inductive Contribution where
  /-- PERIPH: the pin's peripheral controls the line -/
  | periph
  /-- Z: released -/
  | released
  /-- 0: driven low -/
  | low
  /-- 1: actively driven high -/
  | high
  /-- UNKNOWN: no direction yet, or driving a latch that holds no level -/
  | unknown
deriving DecidableEq, Repr

/-- `m(p)`, the contribution of a pin to its line (10_state.md R25). -/
def Pin.contribution (v : Pin) : Contribution :=
  match v.func, v.dir, v.latch with
  | .alt, _, _ => .periph
  | .gpio, .unspecified, _ => .unknown
  | .gpio, .dir .input, _ => .released
  | .gpio, .dir .output, .unspecified => .unknown
  | .gpio, .dir .output, .level false => .low
  | .gpio, .dir .output, .level true => .high

/-- What the spec says of a line's level: a level, or that it is not determined, any value
(10_state.md R26; 93_implementation_defined.md I2). -/
inductive LineLevel where
  | level (b : Level)
  | undetermined
deriving DecidableEq, Repr

/-- The level of a line from THE BLOCK's contribution and whether the bus target pulls it low: the
wired-AND with a pull-up (10_state.md R26; a high drive with the target released reads 1: log 13). -/
def lineLevel (m : Contribution) (targetPullsLow : Bool) : LineLevel :=
  match m with
  | .periph => .undetermined
  | .unknown => .undetermined
  | .low => .level false
  | .released => .level (!targetPullsLow)
  | .high => if targetPullsLow then .undetermined else .level true

/-- The bus oracle's `i`-th coming answer: the one the run fixes in advance, else a free value
(10_state.md R27; log 4). -/
def State.answerAt (s : State) (i : Nat) : Level :=
  match s.answers[i]? with
  | some b => b
  | none => Config.busOracle (s.reads + i)

/-- The bus oracle's next `n` answers, in order. -/
def State.upcoming (s : State) (n : Nat) : List Level := (List.range n).map s.answerAt

/-- The state after `n` draws of the bus oracle. -/
def State.dropAnswers (s : State) (n : Nat) : State :=
  { s with answers := s.answers.drop n, reads := s.reads + n }

end Sys2Proof.Machine
end

