-- ==== Sys2Proof/Machine/Flags.lean ====
section
/-! DEFINITION. The result flags and the status space: the codes of OUTCOME, STATE and FAULT, the two
status registers and a status read (10_state.md R33 to R36; 60_exceptions.md R201). -/

namespace Sys2Proof.Machine

/-- The code of OUTCOME (10_state.md R33). -/
def TxOutcome.code : TxOutcome → BitVec 2
  | .none => 0b00#2
  | .success => 0b01#2
  | .failure => 0b10#2

/-- The code of STATE (10_state.md R34). -/
def OrchState.code : OrchState → BitVec 4
  | .idle => 0#4
  | .claimBus => 1#4
  | .programVoltage => 2#4
  | .programEnable => 3#4
  | .releaseBus => 4#4
  | .enableClocks => 5#4
  | .deassertResets => 6#4
  | .done => 7#4
  | .fatal => 8#4

/-- The code of FAULT (60_exceptions.md R201). -/
def FaultCode.code : FaultCode → BitVec 8
  | .none => 0x00#8
  | .illegalCmd => 0x01#8
  | .notClaimed => 0x02#8
  | .reentry => 0x03#8

/-- STATUS, from bit 31 down: reserved 31:17 (read as 0), HALTED 16, FAULT 15:8, CLAIMED 7, STATE 6:3,
OUTCOME 2:1, LAST_ACK 0 (10_state.md R36). -/
def State.statusWord (s : State) : StatusWord :=
  0#15 ++ BitVec.ofBool s.halted ++ s.faultCode.code ++ BitVec.ofBool s.claimed
    ++ s.orch.code ++ s.outcome.code ++ BitVec.ofBool s.lastAck

/-- A read of the status space by the host: STATUS at 0x0, ATTEMPTS_USED at 0x4, 0 at every other offset.
It has no side effect and works at any time (10_state.md R35, R36; the offset's width: log 16). -/
def readStatus (s : State) (offset : Nat) : StatusWord :=
  if offset = 0x0 then s.statusWord
  else if offset = 0x4 then s.attemptsUsed
  else 0#32

/-- `ack = 1` exactly when the value read is 0 (40_bit_driver.md R110). -/
def ackOf (sample : Level) : Bool := !sample

/-- LAST_ACK is written by every byte shift (10_state.md R33; 40_bit_driver.md R106). -/
def setLastAck (ack : Bool) (s : State) : State := { s with lastAck := ack }

/-- OUTCOME and ATTEMPTS_USED are written by every register write (10_state.md R33, R35;
41_transaction.md R130). -/
def setTxResult (result : TxOutcome) (used : Count) (s : State) : State :=
  { s with attemptsUsed := used, outcome := result }

end Sys2Proof.Machine
end

