-- ==== Sys2Proof/Machine/Ops.lean ====
section
/-! DEFINITION. The shared operations: the event primitives (00_scope.md R13), raising a fault
(60_exceptions.md R200) and the fatal halt, the bodies of the bit-level driver (40_bit_driver.md), the
register transaction (41_transaction.md), the orchestrator's steps (42_orchestrator.md), accepting a
command (30_encoding.md R70), and what the host does. -/

namespace Sys2Proof.Machine

/-! ### Event primitives (00_scope.md R13; 10_state.md R23, R40) -/

/-- Appends one event to `T` (10_state.md R40). -/
def emit (e : Event) (s : State) : State := { s with trace := s.trace ++ [e] }

/-- Replaces the pin of a line. -/
def setPin (p : Line) (v : Pin) (s : State) : State :=
  match p with
  | .scl => { s with scl := v }
  | .sda => { s with sda := v }

/-- `GpioSetFunc(p, f)`: sets the function and nothing else (10_state.md R23). -/
def gpioSetFunc (p : Line) (f : PinFunc) (s : State) : State :=
  emit (.setFunc p f) (setPin p { s.pin p with func := f } s)

/-- `GpioSetDir(p, d)`: sets the direction and nothing else; the latch is kept (10_state.md R23). -/
def gpioSetDir (p : Line) (d : Dir) (s : State) : State :=
  emit (.setDir p d) (setPin p { s.pin p with dir := .dir d } s)

/-- `GpioWrite(p, b)`: sets the latch and nothing else (10_state.md R23). -/
def gpioWrite (p : Line) (b : Level) (s : State) : State :=
  emit (.write p b) (setPin p { s.pin p with latch := .level b } s)

/-- `GpioRead(p) -> b`: 0 where THE BLOCK itself drives the line low (wired-AND), else a draw of the bus
oracle; no effect on any pin (10_state.md R27; 20_memory.md R56; log 14). -/
def gpioRead (p : Line) (s : State) : Level × State :=
  if (s.pin p).contribution = .low then (false, emit (.read p false) s)
  else (s.answerAt 0, emit (.read p (s.answerAt 0)) (s.dropAnswers 1))

/-- `Delay(n)` (00_scope.md R13; 60_exceptions.md R211). -/
def delay (n : Micros) (s : State) : State := emit (.delay n) s

/-- `MemWrite(addr, 4, v)`: one 32-bit memory-mapped write, which never fails (20_memory.md R57). -/
def memWrite (w : MmioPair) (s : State) : State := emit (.mmioWrite w.addr w.value) s

/-- `MemWrite` for each pair, in list order (20_memory.md R57). -/
def memWrites (ws : List MmioPair) (s : State) : State := ws.foldl (fun s w => memWrite w s) s

/-- `Mark(s)`: the marker of entering an orchestrator state, without other effect (10_state.md R41). -/
def mark (st : OrchState) (s : State) : State := emit (.step st) s

/-- `HALTED <- 1; Halt()`, the fatal halt (42_orchestrator.md R150, R171). -/
def fatalHalt (s : State) : State := emit .halt { s with halted := true }

/-! ### Faults (60_exceptions.md R200) -/

/-- `raise F(code)`: FAULT is written and the command ends; pins, registers, STATE and trace stay as they
are (60_exceptions.md R200). There is nothing to return to (R208). -/
def raiseFault (code : FaultCode) (s : State) : State := { s with faultCode := code }

/-- The check of every bus command, made before its first event: NOT_CLAIMED unless the bus is CLAIMED,
else the command's body (40_bit_driver.md R111; 60_exceptions.md R203). -/
def onClaimedBus (body : State → State) (s : State) : Host.Outcome State Fault Refusal :=
  if s.claimed then .next (body s) else .next (raiseFault .notClaimed s)

/-! ### The bit-level driver (40_bit_driver.md) -/

/-- `DriveLine(p, level)`: HIGH releases the line, LOW sets the direction OUT and then writes the latch 0;
then one wait of a half period (40_bit_driver.md R100, R101). -/
def driveLine (p : Line) (level : Level) (s : State) : State :=
  delay (halfUs s.cfg)
    (if level then gpioSetDir p .input s else gpioWrite p false (gpioSetDir p .output s))

/-- The body of START (40_bit_driver.md R104). -/
def startCondition (s : State) : State :=
  driveLine .scl false (driveLine .sda false (driveLine .scl true (driveLine .sda true s)))

/-- The body of STOP (40_bit_driver.md R105). -/
def stopCondition (s : State) : State :=
  driveLine .sda true (driveLine .scl true (driveLine .sda false s))

/-- One bit of the bit loop: SDA to the bit, then SCL high and low (40_bit_driver.md R107). -/
def shiftBit (b : Level) (s : State) : State :=
  driveLine .scl false (driveLine .scl true (driveLine .sda b s))

/-- The bit loop over the byte shifter: `n` bits still to send (40_bit_driver.md R106, R107). -/
def shiftBits : Nat → Shifter → State → State
  | 0, _, s => s
  | n + 1, sh, s => shiftBits n { sh with bitcnt := sh.bitcnt + 1 } (shiftBit sh.currentBit s)

/-- The ACK phase and the restoration: release SDA, SCL high, one read of SDA, SCL low, SDA released; gives
the ACK bit (40_bit_driver.md R108 to R110). -/
def ackPhase (s : State) : Bool × State :=
  let r := gpioRead .sda (driveLine .scl true (driveLine .sda true s))
  (ackOf r.1, driveLine .sda true (driveLine .scl false r.2))

/-- `ShiftByte(value)`: the byte most significant bit first, the ACK phase, LAST_ACK; gives the ACK bit
(40_bit_driver.md R106). -/
def shiftByte (value : Byte) (s : State) : Bool × State :=
  let r := ackPhase (shiftBits 8 { shift := value, bitcnt := 0 } s)
  (r.1, setLastAck r.1 r.2)

/-! ### The register transaction (41_transaction.md) -/

/-- One attempt: START, address byte, register byte, value byte, each only if the one before was
acknowledged, then exactly one STOP; true when the value byte was acknowledged (41_transaction.md R130 to
R132). -/
def attempt (t : Transaction) (s : State) : Bool × State :=
  let a := shiftByte (addressByte t.taddr7) (startCondition s)
  if a.1 then
    let r := shiftByte t.treg a.2
    if r.1 then
      let v := shiftByte t.tval r.2
      (v.1, stopCondition v.2)
    else (false, stopCondition r.2)
  else (false, stopCondition a.2)

/-- What the retry loop ends with: OUTCOME's new value, K, and the state. -/
structure TxResult where
  outcome : TxOutcome
  used : Count
  state : State
deriving DecidableEq, Repr

/-- The retry loop `while K < TMAX` (41_transaction.md R130): `fuel` bounds the rounds still possible, TMAX
at the start. Success ends it (R133); a backoff follows a failed attempt that is not the last (R135). -/
def retryLoop : Nat → Transaction → State → TxResult
  | 0, t, s => ⟨.failure, t.k, s⟩
  | fuel + 1, t, s =>
    if t.k < t.tmax then
      let t' := { t with k := t.k + 1#32 }
      let r := attempt t' s
      if r.1 then ⟨.success, t'.k, r.2⟩
      else retryLoop fuel t' (if t'.k < t'.tmax then delay r.2.cfg.backoffUs r.2 else r.2)
    else ⟨.failure, t.k, s⟩

/-- `WriteReg(a7, r, v, n)`, the body of WRITE_REG without its CLAIMED check (41_transaction.md R130). -/
def writeRegBody (addr7 : Addr7) (reg value : Byte) (maxAttempts : Count) (s : State) : State :=
  let r := retryLoop maxAttempts.toNat
    { taddr7 := addr7, treg := reg, tval := value, tmax := maxAttempts, k := 0#32 } s
  setTxResult r.outcome r.used r.state

/-! ### The orchestrator (42_orchestrator.md) -/

/-- `Enter(s)`: STATE is written and the marker appended (42_orchestrator.md R152). -/
def enter (st : OrchState) (s : State) : State := mark st { s with orch := st }

/-- `ClaimBus()` (42_orchestrator.md R160). -/
def claimBusBody (s : State) : State :=
  delay s.cfg.claimSettleUs
    (gpioSetDir .sda .input (gpioSetDir .scl .input
      (gpioSetFunc .sda .gpio (gpioSetFunc .scl .gpio s))))

/-- `ReleaseBus()`: latch before direction, then the peripheral function; no wait
(42_orchestrator.md R162). -/
def releaseBusBody (s : State) : State :=
  gpioSetFunc .sda .alt (gpioSetFunc .scl .alt
    (gpioSetDir .sda .output (gpioWrite .sda true
      (gpioSetDir .scl .output (gpioWrite .scl true s)))))

/-- The step ProgramVoltage, without its settle delay (42_orchestrator.md R165). -/
def programVoltage (s : State) : State :=
  writeRegBody s.cfg.pmicAddr7 s.cfg.vselReg s.cfg.vselVal s.cfg.vselAttempts (enter .programVoltage s)

/-- The step ProgramEnable, without its settle delay (42_orchestrator.md R167). -/
def programEnable (s : State) : State :=
  writeRegBody s.cfg.pmicAddr7 s.cfg.enReg s.cfg.enVal s.cfg.enAttempts (enter .programEnable s)

/-- The fatal path: ReleaseBus, then Fatal and the halt (42_orchestrator.md R150, R163, R171). -/
def fatalPath (s : State) : State := fatalHalt (enter .fatal (releaseBusBody (enter .releaseBus s)))

/-- The step EnableClocks with its delay (42_orchestrator.md R169). -/
def enableClocks (s : State) : State :=
  delay s.cfg.clkSettleUs (memWrites s.cfg.clkWrites (enter .enableClocks s))

/-- The step DeassertResets with its delay (42_orchestrator.md R170). -/
def deassertResets (s : State) : State :=
  delay s.cfg.rstSettleUs (memWrites s.cfg.rstWrites (enter .deassertResets s))

/-- The end of a bring-up whose two transactions succeeded: ReleaseBus, EnableClocks, DeassertResets, Done
(42_orchestrator.md R150, R172). -/
def finishBringup (s : State) : State :=
  enter .done (deassertResets (enableClocks (releaseBusBody (enter .releaseBus s))))

/-- The second transaction and what follows it (42_orchestrator.md R150, R167, R168). -/
def bringupFromEnable (s : State) : State :=
  let e := programEnable s
  if e.outcome = .failure then fatalPath e
  else finishBringup (delay e.cfg.enSettleUs e)

/-- The body of BRINGUP after its check (42_orchestrator.md R150, R165, R166). -/
def bringupBody (s : State) : State :=
  let v := programVoltage (claimBusBody (enter .claimBus s))
  if v.outcome = .failure then fatalPath v
  else bringupFromEnable (delay v.cfg.vselSettleUs v)

/-! ### Accepting a command (30_encoding.md R70; 60_exceptions.md R205, R207) -/

/-- Why THE BLOCK has no step, if it has none: HALTED = 1 or FAULT ≠ 0 (60_exceptions.md R205, R208;
log 7). -/
def stopReason (s : State) : Option Fault :=
  if s.halted then some .stoppedByHalt
  else if s.faultCode ≠ .none then some .stoppedByFault
  else none

/-- The next command word on the port and the state after it is taken, if the host presents one
(30_encoding.md R70; log 5). -/
def acceptWord (s : State) : Option (CmdWord × State) :=
  match s.port with
  | [] => none
  | c :: rest => some (c, { s with port := rest })

/-- A word that decodes to no command: ILLEGAL_CMD (60_exceptions.md R202). -/
def rejectWord (s : State) : State := raiseFault .illegalCmd s

/-- With no word on the port THE BLOCK waits for one (70_reset_and_hazards.md R230; log 6). -/
def waitForCommand (s : State) : State := s

/-- `s` with the word `c` presented as the next one on the port. -/
def presentNext (c : CmdWord) (s : State) : State := { s with port := c :: s.port }

/-! ### What the host does (70_reset_and_hazards.md R230, R231; 00_scope.md R10) -/

/-- The host presents one more word after those it presented before (30_encoding.md R70). A word presented while
THE BLOCK is stopped changes nothing: it is not accepted and its command never completes (60_exceptions.md
R205). -/
def hostPresent (c : CmdWord) (s : State) : State :=
  if (stopReason s).isSome then s else { s with port := s.port ++ [c] }

/-- The platform's reset: every element of `S` to its reset value, without an event
(70_reset_and_hazards.md R230). The configuration is not state, and the oracle's answers are the bus target's. No
word is left on the port: one that waited while THE BLOCK was stopped never completes (60_exceptions.md R205), and
that one which waited on a running block is lost too is the model's choice (log 12). -/
def platformReset (s : State) : State :=
  { State.resetWith s.cfg with answers := s.answers, reads := s.reads }

/-- Building THE BLOCK with a configuration: the reset state, or a refusal where the configuration is
illegal (00_scope.md R10; 93_implementation_defined.md I15; log 3). -/
def instantiate (p : Params) : Host.Outcome State Fault Refusal :=
  if p.legal then .next (State.resetWith p) else .refused .illegalConfiguration

end Sys2Proof.Machine
end

