-- ==== Sys2Proof/Machine/BitDriver.lean ====
section
/-! DEFINITION. The five commands of the bit-level bus driver (40_bit_driver.md). -/

namespace Sys2Proof.Machine

/-- DRIVE_SDA (40_bit_driver.md R102). -/
def execDriveSda (level : Level) (s : State) : Host.Outcome State Fault Refusal :=
  onClaimedBus (driveLine .sda level) s

/-- DRIVE_SCL (40_bit_driver.md R103). -/
def execDriveScl (level : Level) (s : State) : Host.Outcome State Fault Refusal :=
  onClaimedBus (driveLine .scl level) s

/-- START (40_bit_driver.md R104). -/
def execStart (s : State) : Host.Outcome State Fault Refusal := onClaimedBus startCondition s

/-- STOP (40_bit_driver.md R105). -/
def execStop (s : State) : Host.Outcome State Fault Refusal := onClaimedBus stopCondition s

/-- SEND_BYTE (40_bit_driver.md R106): a NACK is a result, not a fault. -/
def execSendByte (value : Byte) (s : State) : Host.Outcome State Fault Refusal :=
  onClaimedBus (fun s => (shiftByte value s).2) s

end Sys2Proof.Machine
end

