-- ==== Sys2Proof/Machine/Orchestrator.lean ====
section
/-! DEFINITION. The bus claim and release commands and the bring-up command (42_orchestrator.md). -/

namespace Sys2Proof.Machine

/-- CLAIM_BUS (42_orchestrator.md R160): it cannot fail and does not change STATE. -/
def execClaimBus (s : State) : Host.Outcome State Fault Refusal := .next (claimBusBody s)

/-- RELEASE_BUS (42_orchestrator.md R162): it needs no claimed bus and does not change STATE. -/
def execReleaseBus (s : State) : Host.Outcome State Fault Refusal := .next (releaseBusBody s)

/-- BRINGUP (42_orchestrator.md R150): REENTRY unless STATE is Idle (R177), else the bring-up sequence,
whose fatal path is a next state with HALTED set (R171, R175; log 20). -/
def execBringup (s : State) : Host.Outcome State Fault Refusal :=
  if s.orch = .idle then .next (bringupBody s) else .next (raiseFault .reentry s)

end Sys2Proof.Machine
end

