-- ==== Sys2Proof/Machine/Transaction.lean ====
section
/-! DEFINITION. The command of the register transaction layer (41_transaction.md). -/

namespace Sys2Proof.Machine

/-- WRITE_REG (41_transaction.md R130): the CLAIMED check, once and also for a budget of 0, then the
transaction; exhausting the attempts is an outcome, not a fault. -/
def execWriteReg (addr7 : Addr7) (reg value : Byte) (maxAttempts : Count) (s : State) :
    Host.Outcome State Fault Refusal :=
  onClaimedBus (writeRegBody addr7 reg value maxAttempts) s

end Sys2Proof.Machine
end

