-- ==== Sys2Proof/Machine/Dispatch.lean ====
section
/-! DEFINITION. One arm for each command, each a direct call of its meaning (30_encoding.md R73). -/

namespace Sys2Proof.Machine

def exec (i : Instr) (s : State) : Host.Outcome State Fault Refusal :=
  match i with
  | .driveSda level => Sys2Proof.Machine.execDriveSda level s
  | .driveScl level => Sys2Proof.Machine.execDriveScl level s
  | .start => Sys2Proof.Machine.execStart s
  | .stop => Sys2Proof.Machine.execStop s
  | .sendByte value => Sys2Proof.Machine.execSendByte value s
  | .writeReg addr7 reg value maxAttempts => Sys2Proof.Machine.execWriteReg addr7 reg value maxAttempts s
  | .claimBus => Sys2Proof.Machine.execClaimBus s
  | .releaseBus => Sys2Proof.Machine.execReleaseBus s
  | .bringup => Sys2Proof.Machine.execBringup s

end Sys2Proof.Machine
end

