-- ==== Sys2Proof/Machine/Step.lean ====
section
/-! DEFINITION. One step of THE BLOCK: one command accepted, decoded and run to completion
(30_encoding.md R70, R74; 60_exceptions.md R207). -/

namespace Sys2Proof.Machine

/-- One step. The order of checks is acceptance, decode, the command's own precondition
(60_exceptions.md R207): a stopped block has no step (R205), a word that decodes to nothing raises
ILLEGAL_CMD (R202), any other word is executed; with no word presented THE BLOCK waits. -/
def step (s : State) : Host.Outcome State Fault Refusal :=
  match stopReason s with
  | some r => .fault r
  | none =>
    match acceptWord s with
    | none => .next (waitForCommand s)
    | some (c, t) =>
      match decode c with
      | .instr i => exec i t
      | .illegal _ => .next (rejectWord t)

/-- `s` with the instruction whose `nbits` bits are `w` presented as the next word of the command port
(log 5): the step after it accepts exactly this word. -/
def State.withFetchWord (s : State) (nbits w : Nat) : State :=
  presentNext (BitVec.ofNat 64 (w % 2 ^ nbits)) s

end Sys2Proof.Machine
end

