-- ==== Sys2Proof/Safety.lean ====
section
/-! DEFINITION. The terms statements use: the event lists the spec writes for each command, what an observer
reads off a trace (10_state.md R40; 60_exceptions.md R214), and the invariants of a safe run. -/

namespace Sys2Proof.Machine

/-! ### Event lists (40_bit_driver.md R100, R104, R105, R107 to R109; 42_orchestrator.md R160, R162) -/

/-- The events of `DriveLine(p, level)` with half period `h` (40_bit_driver.md R100). -/
def driveEvents (h : Micros) (p : Line) (level : Level) : List Event :=
  if level then [.setDir p .input, .delay h]
  else [.setDir p .output, .write p false, .delay h]

/-- The ten events of START (40_bit_driver.md R104). -/
def startEvents (h : Micros) : List Event :=
  [ .setDir .sda .input, .delay h, .setDir .scl .input, .delay h,
    .setDir .sda .output, .write .sda false, .delay h, .setDir .scl .output, .write .scl false, .delay h ]

/-- The seven events of STOP (40_bit_driver.md R105). -/
def stopEvents (h : Micros) : List Event :=
  [ .setDir .sda .output, .write .sda false, .delay h, .setDir .scl .input, .delay h,
    .setDir .sda .input, .delay h ]

/-- The events of one bit: SDA to the bit, SCL high, SCL low (40_bit_driver.md R107). -/
def bitEvents (h : Micros) (b : Level) : List Event :=
  driveEvents h .sda b ++ driveEvents h .scl true ++ driveEvents h .scl false

/-- The events of the ACK phase whose sample is `r` (40_bit_driver.md R108 to R110). -/
def ackEvents (h : Micros) (r : Level) : List Event :=
  driveEvents h .sda true ++ driveEvents h .scl true ++ [.read .sda r]
    ++ driveEvents h .scl false ++ driveEvents h .sda true

/-- The bits of a byte in the order they go on the bus, most significant first (20_memory.md R52). -/
def msbFirst (v : Byte) : List Level := (List.range 8).map fun i => v.getLsbD (7 - i)

/-- The events of a byte shift whose ACK sample is `r` (40_bit_driver.md R106). -/
def shiftEvents (h : Micros) (v : Byte) (r : Level) : List Event :=
  (msbFirst v).flatMap (bitEvents h) ++ ackEvents h r

/-- The number of 0 bits of a byte, `z(v)` (40_bit_driver.md R113). -/
def zeroBits (v : Byte) : Nat := (msbFirst v).countP (fun b => !b)

/-- The five events of CLAIM_BUS (42_orchestrator.md R160). -/
def claimEvents (settle : Micros) : List Event :=
  [ .setFunc .scl .gpio, .setFunc .sda .gpio, .setDir .scl .input, .setDir .sda .input, .delay settle ]

/-- The six events of RELEASE_BUS (42_orchestrator.md R162). -/
def releaseEvents : List Event :=
  [ .write .scl true, .setDir .scl .output, .write .sda true, .setDir .sda .output,
    .setFunc .scl .alt, .setFunc .sda .alt ]

/-! ### Attempts of a register write (41_transaction.md R132, R135) -/

/-- The byte a failed attempt ended at: not acknowledged (41_transaction.md R132). -/
inductive NackPoint where
  | address
  | register
  | value
deriving DecidableEq, Repr

/-- The ACK samples of an attempt that fails at the given byte: 0 acknowledges, 1 does not
(00_scope.md R15). -/
def NackPoint.samples : NackPoint → List Level
  | .address => [true]
  | .register => [false, true]
  | .value => [false, false, true]

/-- The ACK samples of a successful attempt. -/
def ackedSamples : List Level := [false, false, false]

/-- What a register write is asked to send: device address, register offset, value
(20_memory.md R53). -/
structure RegWrite where
  addr7 : Addr7
  reg : Byte
  value : Byte
deriving DecidableEq, Repr

/-- The events of a failed attempt: START, the bytes up to the one not acknowledged, STOP
(41_transaction.md R132). -/
def failedEvents (h : Micros) (w : RegWrite) : NackPoint → List Event
  | .address => startEvents h ++ shiftEvents h (addressByte w.addr7) true ++ stopEvents h
  | .register =>
    startEvents h ++ shiftEvents h (addressByte w.addr7) false ++ shiftEvents h w.reg true ++ stopEvents h
  | .value =>
    startEvents h ++ shiftEvents h (addressByte w.addr7) false ++ shiftEvents h w.reg false
      ++ shiftEvents h w.value true ++ stopEvents h

/-- The events of a successful attempt (41_transaction.md R132). -/
def ackedEvents (h : Micros) (w : RegWrite) : List Event :=
  startEvents h ++ shiftEvents h (addressByte w.addr7) false ++ shiftEvents h w.reg false
    ++ shiftEvents h w.value false ++ stopEvents h

/-- The samples of the failed attempts `fs`, in order. -/
def nackSamples (fs : List NackPoint) : List Level := fs.flatMap NackPoint.samples

/-- The events of a register write all of whose attempts failed, at the bytes `fs`: a backoff between
attempts only (41_transaction.md R135). -/
def exhaustedEvents (p : Params) (w : RegWrite) (fs : List NackPoint) : List Event :=
  [Event.delay p.backoffUs].intercalate (fs.map (failedEvents (halfUs p) w))

/-- The events of a register write that succeeds after the failed attempts `fs`
(41_transaction.md R133, R135). -/
def succeededEvents (p : Params) (w : RegWrite) (fs : List NackPoint) : List Event :=
  [Event.delay p.backoffUs].intercalate (fs.map (failedEvents (halfUs p) w) ++ [ackedEvents (halfUs p) w])

/-- ProgramVoltage's register write (42_orchestrator.md R165). -/
def vselWrite (p : Params) : RegWrite := ⟨p.pmicAddr7, p.vselReg, p.vselVal⟩

/-- ProgramEnable's register write (42_orchestrator.md R167). -/
def enWrite (p : Params) : RegWrite := ⟨p.pmicAddr7, p.enReg, p.enVal⟩

/-- The events of a list of memory-mapped writes, in list order (20_memory.md R57). -/
def mmioEvents (ws : List MmioPair) : List Event := ws.map fun w => .mmioWrite w.addr w.value

/-- The events from ReleaseBus to Done (42_orchestrator.md R150). -/
def finishEvents (p : Params) : List Event :=
  [.step .releaseBus] ++ releaseEvents
    ++ [.step .enableClocks] ++ mmioEvents p.clkWrites ++ [.delay p.clkSettleUs]
    ++ [.step .deassertResets] ++ mmioEvents p.rstWrites ++ [.delay p.rstSettleUs] ++ [.step .done]

/-- The events of the fatal path (42_orchestrator.md R150, R163, R171). -/
def fatalEvents : List Event := [.step .releaseBus] ++ releaseEvents ++ [.step .fatal, .halt]

/-! ### What an observer reads off a trace (60_exceptions.md R214) -/

/-- The requested wait of an event, in microseconds (60_exceptions.md R211). -/
def Event.wait : Event → Nat
  | .delay n => n.toNat
  | _ => 0

/-- The total requested wait of a list of events (70_reset_and_hazards.md R250). -/
def totalWait (es : List Event) : Nat := (es.map Event.wait).sum

/-- The event is a wait. -/
def Event.isDelay : Event → Bool
  | .delay _ => true
  | _ => false

/-- The event is a read of a line. -/
def Event.isRead : Event → Bool
  | .read _ _ => true
  | _ => false

/-- The event sets or writes a pin. -/
def Event.isGpioSet : Event → Bool
  | .setFunc _ _ => true
  | .setDir _ _ => true
  | .write _ _ => true
  | _ => false

/-- The state an event marks the entry of, if any (10_state.md R41). -/
def Event.marker? : Event → Option OrchState
  | .step st => some st
  | _ => none

/-- The `Step` markers of a trace, in order (10_state.md R41). -/
def markers (es : List Event) : List OrchState := es.filterMap Event.marker?

/-- The memory-mapped write an event is, if any. -/
def Event.mmio? : Event → Option MmioPair
  | .mmioWrite a v => some ⟨a, v⟩
  | _ => none

/-- The memory-mapped writes of a trace, in order (20_memory.md R57). -/
def mmioWrites (es : List Event) : List MmioPair := es.filterMap Event.mmio?

/-- The value an event read, if it is a read. -/
def Event.sample? : Event → Option Level
  | .read _ b => some b
  | _ => none

/-- The samples read in a trace, in order. -/
def samples (es : List Event) : List Level := es.filterMap Event.sample?

/-- Both pins after one event: only the GPIO capability's events act on them, each on one field of one pin
(10_state.md R23; 20_memory.md R56). First component SCL, second SDA. -/
def replayEvent (v : Pin × Pin) : Event → Pin × Pin
  | .setFunc .scl f => ({ v.1 with func := f }, v.2)
  | .setFunc .sda f => (v.1, { v.2 with func := f })
  | .setDir .scl d => ({ v.1 with dir := .dir d }, v.2)
  | .setDir .sda d => (v.1, { v.2 with dir := .dir d })
  | .write .scl b => ({ v.1 with latch := .level b }, v.2)
  | .write .sda b => (v.1, { v.2 with latch := .level b })
  | _ => v

/-- Both pins after a list of events: what a line-level observer placed after them works from
(70_reset_and_hazards.md R243). -/
def replayPins (v : Pin × Pin) (es : List Event) : Pin × Pin := es.foldl replayEvent v

/-- THE BLOCK's contribution to SDA at every release of SCL in a trace: what it puts on the bus at each clock
pulse (40_bit_driver.md R107, R108). -/
def clockPulses (v : Pin × Pin) : List Event → List Contribution
  | [] => []
  | e :: es =>
    if e = .setDir .scl .input then (replayEvent v e).2.contribution :: clockPulses (replayEvent v e) es
    else clockPulses (replayEvent v e) es

/-- What THE BLOCK contributes to SDA to send a bit: released for 1, low for 0
(40_bit_driver.md R107). -/
def bitContribution (b : Level) : Contribution := if b then .released else .low

/-- The level of a line with the bus target releasing it (10_state.md R26). DESIGN CHOICE (log 22): the target's
own pulls are no part of a trace. -/
def releasedLevel (v : Pin) : LineLevel := lineLevel v.contribution false

/-- The level of SDA that an observer of START and STOP conditions works from: while SCL is high the last level of SDA
that the spec determines in this high phase (`last` if it determines none now), nothing while SCL is not high.
DESIGN CHOICE (log 22): a level the spec leaves undetermined (10_state.md R26, R243) is passed over. -/
def sdaWhileHigh (v : Pin × Pin) (last : Option Level) : Option Level :=
  match releasedLevel v.1, releasedLevel v.2 with
  | .level true, .level b => some b
  | .level true, .undetermined => last
  | .level false, _ => none
  | .undetermined, _ => none

/-- A START condition: SDA falls while SCL is high (00_scope.md R15). -/
def startsAt (before after : Option Level) : Bool := decide (before = some true ∧ after = some false)

/-- A STOP condition: SDA rises while SCL is high (00_scope.md R15). -/
def stopsAt (before after : Option Level) : Bool := decide (before = some false ∧ after = some true)

/-- How often a condition on the level of SDA before and after an event holds along a trace. -/
def countAlong (cond : Option Level → Option Level → Bool) (v : Pin × Pin) (last : Option Level) :
    List Event → Nat
  | [] => 0
  | e :: es =>
    (if cond last (sdaWhileHigh (replayEvent v e) last) then 1 else 0)
      + countAlong cond (replayEvent v e) (sdaWhileHigh (replayEvent v e) last) es

/-- The level of SDA an observer works from after a trace. -/
def levelAlong (v : Pin × Pin) (last : Option Level) : List Event → Option Level
  | [] => last
  | e :: es => levelAlong (replayEvent v e) (sdaWhileHigh (replayEvent v e) last) es

/-- The number of START conditions THE BLOCK puts on the bus in a trace that begins with the pins `v` (undetermined
levels and the target's pulls: log 22). -/
def startConditions (v : Pin × Pin) (es : List Event) : Nat := countAlong startsAt v (sdaWhileHigh v none) es

/-- The number of STOP conditions THE BLOCK puts on the bus in a trace that begins with the pins `v` (undetermined
levels and the target's pulls: log 22). -/
def stopConditions (v : Pin × Pin) (es : List Event) : Nat := countAlong stopsAt v (sdaWhileHigh v none) es

/-- The requested wait of a failed attempt in half periods (41_transaction.md R139). -/
def NackPoint.halfPeriods : NackPoint → Nat
  | .address => 35
  | .register => 63
  | .value => 91

/-- The requested wait of the failed attempts `fs` in half periods (41_transaction.md R139). -/
def failedHalfPeriods (fs : List NackPoint) : Nat := (fs.map NackPoint.halfPeriods).sum

/-! ### Invariants of a run -/

/-- The discipline of the two lines between commands: both pins have one function, and a pin in GPIO function
is released or driven low, never driven high and never unknown (10_state.md R24, R25). -/
def BusDisciplined (s : State) : Prop :=
  s.scl.func = s.sda.func
    ∧ (s.scl.func = .gpio → s.scl.contribution = .released ∨ s.scl.contribution = .low)
    ∧ (s.sda.func = .gpio → s.sda.contribution = .released ∨ s.sda.contribution = .low)

/-- How a run stops: halted exactly in Fatal (42_orchestrator.md R171), never halted and faulted
(60_exceptions.md R205), and STATE between commands is Idle, Done or Fatal (42_orchestrator.md R151). -/
def StopConsistent (s : State) : Prop :=
  (s.halted = true ↔ s.orch = .fatal)
    ∧ (s.halted = true → s.faultCode = .none)
    ∧ (s.orch = .idle ∨ s.orch = .done ∨ s.orch = .fatal)

/-- The trace tells the state: the pins are what its events make of the reset pins (10_state.md R23, R43),
STATE is its last marker (R41; 42_orchestrator.md R152), HALTED says that it holds the halt
(42_orchestrator.md R171), LAST_ACK is the acknowledgment of its last sample (10_state.md R33;
40_bit_driver.md R110). -/
def TraceFaithful (s : State) : Prop :=
  replayPins (Pin.atReset, Pin.atReset) s.trace = (s.scl, s.sda)
    ∧ (markers s.trace).getLast?.getD .idle = s.orch
    ∧ (Event.halt ∈ s.trace ↔ s.halted = true)
    ∧ ((samples s.trace).getLast?.map ackOf).getD false = s.lastAck

end Sys2Proof.Machine
end

