-- ==== Sys2Proof/Certificates/Slice0/Obligations.lean ====
section
/-! DEFINITION. The statements about THE BLOCK that the provers settle. Each says which rules of spec/ it
formalises; OBLIGATIONS.json lists them. -/

open Sys2Proof Sys2Proof.Machine

/-! ### Encoding (30_encoding.md) -/

/-- Decoding the word of a command gives the command back, for every command and every operand
(30_encoding.md R71, R72, R73). -/
def Obligations.DecodeEncodeRoundTrip : Prop :=
  ∀ i : Instr, decode (encode i) = .instr i

/-- A word that decodes to a command is the word of that command: no bit of a legal word is ignored
(30_encoding.md R74, R75). -/
def Obligations.EncodeDecodeRoundTrip : Prop :=
  ∀ (c : CmdWord) (i : Instr), decode c = .instr i → encode i = c

/-- R74: at most one row matches any word; a matching row gives its command; a word that matches none raises
ILLEGAL_CMD and has no other effect than being taken from the port. -/
def Obligations.RowsDecideDecoding : Prop :=
  ∀ c : CmdWord,
    (∀ r ∈ opcodeTable, ∀ r' ∈ opcodeTable,
        c &&& r.mask = r.pattern → c &&& r'.mask = r'.pattern → r = r')
      ∧ (∀ r ∈ opcodeTable, c &&& r.mask = r.pattern →
          ∃ i : Instr, decode c = .instr i ∧ i.mnemonic = r.mnemonic)
      ∧ ((∀ r ∈ opcodeTable, c &&& r.mask ≠ r.pattern) →
          (∃ why, decode c = .illegal why)
            ∧ ∀ (s : State) (rest : List CmdWord), s.halted = false → s.faultCode = .none →
                s.port = c :: rest →
                step s = .next { s with port := rest, faultCode := .illegalCmd })

/-- R72: every operand is an unsigned field of the word, without extension, scaling or shifting. -/
def Obligations.OperandsAreUnsignedFields : Prop :=
  ∀ (c : CmdWord) (i : Instr), decode c = .instr i →
    match i with
    | .driveSda l => l.toNat = c.toNat / 2 ^ 4 % 2
    | .driveScl l => l.toNat = c.toNat / 2 ^ 4 % 2
    | .sendByte v => v.toNat = c.toNat / 2 ^ 8 % 2 ^ 8
    | .writeReg a r v n =>
      a.toNat = c.toNat / 2 ^ 24 % 2 ^ 7 ∧ r.toNat = c.toNat / 2 ^ 8 % 2 ^ 8
        ∧ v.toNat = c.toNat / 2 ^ 16 % 2 ^ 8 ∧ n.toNat = c.toNat / 2 ^ 32
    | _ => True

/-- R202: a reserved opcode, or a nonzero bit in a field the opcode does not use, raises ILLEGAL_CMD (0x01),
whatever the pins and registers hold. -/
def Obligations.IllegalWordsRaiseIllegalCmd : Prop :=
  FaultCode.illegalCmd.code = 0x01#8
    ∧ ∀ (s : State) (c : CmdWord) (rest : List CmdWord), s.halted = false → s.faultCode = .none →
        s.port = c :: rest →
        ((c.toNat % 16 = 0 ∨ 10 ≤ c.toNat % 16)
          ∨ ∃ r ∈ opcodeTable, c.toNat % 16 = r.mnemonic.opcode.toNat ∧ c &&& r.mask ≠ r.pattern) →
        step s = .next { s with port := rest, faultCode := .illegalCmd }

/-- R79: the encoding examples. -/
def Obligations.EncodingExamples : Prop :=
  assembleLine "sendb 0x85" = some 0x0000000000008505#64
    ∧ assembleLine "wreg 0x42, 0x10, 0x5A, 3" = some 0x00000003425A1006#64
    ∧ assembleLine "sda.drive 1" = some 0x0000000000000011#64
    ∧ assembleLine "bringup" = some 0x0000000000000009#64
    ∧ decode 0x0000000000008505#64 = .instr (.sendByte 0x85#8)
    ∧ decode 0x00000003425A1006#64 = .instr (.writeReg 0x42#7 0x10#8 0x5A#8 3#32)
    ∧ decode 0x0000000000000011#64 = .instr (.driveSda true)
    ∧ decode 0x0000000000000009#64 = .instr .bringup
    ∧ decode 0x0000000000000015#64 = .illegal .unusedFieldNonzero
    ∧ decode 0x0000000000000000#64 = .illegal .reservedOpcode

/-- The word column of 30_encoding.md R77 and R78 for every operand that fits its field, and an assembly error for
every operand that does not. -/
def Obligations.AssemblerWords : Prop :=
  (∀ l : Nat, (assemble (.sdaDrive l)).map encode
      = if l ≤ 1 then some (BitVec.ofNat 64 (l <<< 4 ||| 0x1)) else none)
    ∧ (∀ l : Nat, (assemble (.sclDrive l)).map encode
      = if l ≤ 1 then some (BitVec.ofNat 64 (l <<< 4 ||| 0x2)) else none)
    ∧ (∀ b : Nat, (assemble (.sendb b)).map encode
      = if b ≤ 0xFF then some (BitVec.ofNat 64 (b <<< 8 ||| 0x5)) else none)
    ∧ (∀ a r v n : Nat, (assemble (.wreg a r v n)).map encode
      = if a ≤ 0x7F ∧ r ≤ 0xFF ∧ v ≤ 0xFF ∧ n ≤ 0xFFFFFFFF then
          some (BitVec.ofNat 64 (n <<< 32 ||| a <<< 24 ||| v <<< 16 ||| r <<< 8 ||| 0x6))
        else none)
    ∧ (assemble .start).map encode = some 0x3#64 ∧ (assemble .stop).map encode = some 0x4#64
    ∧ (assemble .claim).map encode = some 0x7#64 ∧ (assemble .release).map encode = some 0x8#64
    ∧ (assemble .bringup).map encode = some 0x9#64
    ∧ (assemble .sdaRelease).map encode = some 0x11#64 ∧ (assemble .sdaLow).map encode = some 0x01#64
    ∧ (assemble .sclRelease).map encode = some 0x12#64 ∧ (assemble .sclLow).map encode = some 0x02#64

/-! ### The step (30_encoding.md R70; 60_exceptions.md R200 to R207) -/

/-- An accepted word that decodes to a command: the step is the command's meaning, on the state from whose port the
word is taken (30_encoding.md R70). -/
def Obligations.StepRunsDecodedCommand : Prop :=
  ∀ (s : State) (c : CmdWord) (rest : List CmdWord) (i : Instr), s.halted = false →
    s.faultCode = .none → s.port = c :: rest → decode c = .instr i →
    step s = exec i { s with port := rest }

/-- With no word presented a block that is not stopped waits, unchanged: the model's reading of 'After reset THE
BLOCK waits for a command' (70_reset_and_hazards.md R230; log 6). -/
def Obligations.StepWaitsForWord : Prop :=
  ∀ s : State, s.halted = false → s.faultCode = .none → s.port = [] → step s = .next s

/-- A stopped block has no step, whatever is presented (60_exceptions.md R205, R208). That the model shows this as a
fault outcome named for the reason is the model's choice (log 7). -/
def Obligations.StoppedBlockHasNoStep : Prop :=
  ∀ s : State,
    (s.halted = true → step s = .fault .stoppedByHalt)
      ∧ (s.halted = false → s.faultCode ≠ .none → step s = .fault .stoppedByFault)

/-- A word that the host presents to a stopped block is not accepted and its command never completes, also not after a
reset, which leaves no word on the port; to a running block it is presented after the earlier ones (60_exceptions.md
R205; 30_encoding.md R70). The port as a queue is the model's own (log 5), and that a reset loses a word waiting on a
running block too is its choice (log 12); with none a running block waits (log 6). -/
def Obligations.WordsPresentedWhileStoppedNeverRun : Prop :=
  ∀ (c : CmdWord) (s : State),
    (s.halted = true ∨ s.faultCode ≠ .none → hostPresent c s = s)
      ∧ (s.halted = false → s.faultCode = .none → hostPresent c s = { s with port := s.port ++ [c] })
      ∧ step (platformReset (hostPresent c s)) = .next (platformReset s)

/-- R200: a command that raises a fault changes FAULT and nothing else, and the block then has no step; no command
changes FAULT and goes on. A step that ends with a fault has only taken its word and written FAULT; a reset clears the
fault. -/
def Obligations.FaultsArePrecise : Prop :=
  (∀ (i : Instr) (s t : State), exec i s = .next t → t.faultCode ≠ s.faultCode →
      t = { s with faultCode := t.faultCode } ∧ t.faultCode ≠ .none ∧ ∃ r, step t = .fault r)
    ∧ (∀ s t : State, step s = .next t → t.faultCode ≠ .none →
        t = { s with port := s.port.drop 1, faultCode := t.faultCode })
    ∧ ∀ s : State, (platformReset s).faultCode = .none

/-- R207: acceptance comes before decode, decode before the command's own precondition; NOT_CLAIMED is the bus
commands' and REENTRY is BRINGUP's; a command that raises one has emitted no event. -/
def Obligations.FaultPriority : Prop :=
  (∀ s : State, s.halted = true ∨ s.faultCode ≠ .none → ∀ t, step s ≠ .next t)
    ∧ (∀ (s : State) (c : CmdWord) (rest : List CmdWord) (why : IllegalReason), s.halted = false →
        s.faultCode = .none → s.port = c :: rest → decode c = .illegal why →
        step s = .next { s with port := rest, faultCode := .illegalCmd })
    ∧ (∀ (s t : State) (c : CmdWord) (rest : List CmdWord) (i : Instr), s.halted = false →
        s.faultCode = .none → s.port = c :: rest → decode c = .instr i → step s = .next t →
        t.faultCode = .none
          ∨ (t.faultCode = .notClaimed ∧ s.claimed = false
              ∧ i.mnemonic ∈ [.driveSda, .driveScl, .start, .stop, .sendByte, .writeReg])
          ∨ (t.faultCode = .reentry ∧ s.orch ≠ .idle ∧ i = .bringup))
    ∧ ∀ (i : Instr) (s t : State), s.faultCode = .none → exec i s = .next t → t.faultCode ≠ .none →
        t.trace = s.trace

/-- R203: every bus command on a bus that is not CLAIMED raises NOT_CLAIMED (0x02) and does nothing else, WRITE_REG
also with a budget of 0; BRINGUP never raises it. -/
def Obligations.NotClaimedFault : Prop :=
  FaultCode.notClaimed.code = 0x02#8
    ∧ (∀ (i : Instr) (s : State),
        i.mnemonic ∈ [.driveSda, .driveScl, .start, .stop, .sendByte, .writeReg] →
        s.scl.func ≠ .gpio ∨ s.sda.func ≠ .gpio →
        exec i s = .next { s with faultCode := .notClaimed })
    ∧ ∀ s t : State, exec .bringup s = .next t → t.faultCode = s.faultCode ∨ t.faultCode = .reentry

/-- R204: BRINGUP while STATE is not Idle raises REENTRY (0x03) and does nothing else. -/
def Obligations.ReentryFault : Prop :=
  FaultCode.reentry.code = 0x03#8
    ∧ ∀ s : State, s.orch ≠ .idle → exec .bringup s = .next { s with faultCode := .reentry }

/-- R37: FAULT and HALTED are cleared by no command and by no step, and reset clears both. -/
def Obligations.FaultAndHaltAreSticky : Prop :=
  (∀ (i : Instr) (s t : State), exec i s = .next t →
      (s.faultCode ≠ .none → t.faultCode ≠ .none) ∧ (s.halted = true → t.halted = true))
    ∧ (∀ s t : State, step s = .next t → s.faultCode = .none ∧ s.halted = false)
    ∧ ∀ s : State, (platformReset s).faultCode = .none ∧ (platformReset s).halted = false

/-! ### The bit-level driver (40_bit_driver.md) -/

/-- R102: DRIVE_SDA on a claimed bus, both levels: everything it changes, all else as before. -/
def Obligations.DriveSdaResult : Prop :=
  (∀ s : State, s.claimed = true → exec (.driveSda true) s = .next { s with
      sda := { s.sda with dir := .dir .input }
      trace := s.trace ++ [.setDir .sda .input, .delay (halfUs s.cfg)] })
    ∧ (∀ s : State, s.claimed = true → exec (.driveSda false) s = .next { s with
      sda := { s.sda with dir := .dir .output, latch := .level false }
      trace := s.trace ++ [.setDir .sda .output, .write .sda false, .delay (halfUs s.cfg)] })
    ∧ ∀ (l : Level) (s : State), s.claimed = false →
        exec (.driveSda l) s = .next { s with faultCode := .notClaimed }

/-- R103: DRIVE_SCL on a claimed bus, both levels: everything it changes, all else as before. -/
def Obligations.DriveSclResult : Prop :=
  (∀ s : State, s.claimed = true → exec (.driveScl true) s = .next { s with
      scl := { s.scl with dir := .dir .input }
      trace := s.trace ++ [.setDir .scl .input, .delay (halfUs s.cfg)] })
    ∧ (∀ s : State, s.claimed = true → exec (.driveScl false) s = .next { s with
      scl := { s.scl with dir := .dir .output, latch := .level false }
      trace := s.trace ++ [.setDir .scl .output, .write .scl false, .delay (halfUs s.cfg)] })
    ∧ ∀ (l : Level) (s : State), s.claimed = false →
        exec (.driveScl l) s = .next { s with faultCode := .notClaimed }

/-- R104: START on a claimed bus, from any pin state: the ten events, both lines driven low, all else as before. -/
def Obligations.StartResult : Prop :=
  (∀ s : State, s.claimed = true → exec .start s = .next { s with
      scl := ⟨.gpio, .dir .output, .level false⟩
      sda := ⟨.gpio, .dir .output, .level false⟩
      trace := s.trace ++
        [ .setDir .sda .input, .delay (halfUs s.cfg), .setDir .scl .input, .delay (halfUs s.cfg),
          .setDir .sda .output, .write .sda false, .delay (halfUs s.cfg),
          .setDir .scl .output, .write .scl false, .delay (halfUs s.cfg) ] })
    ∧ ∀ s : State, s.claimed = false → exec .start s = .next { s with faultCode := .notClaimed }

/-- R105: STOP on a claimed bus, from any pin state: the seven events, both lines released, the SCL latch kept, all
else as before. -/
def Obligations.StopResult : Prop :=
  (∀ s : State, s.claimed = true → exec .stop s = .next { s with
      scl := ⟨.gpio, .dir .input, s.scl.latch⟩
      sda := ⟨.gpio, .dir .input, .level false⟩
      trace := s.trace ++
        [ .setDir .sda .output, .write .sda false, .delay (halfUs s.cfg),
          .setDir .scl .input, .delay (halfUs s.cfg), .setDir .sda .input, .delay (halfUs s.cfg) ] })
    ∧ ∀ s : State, s.claimed = false → exec .stop s = .next { s with faultCode := .notClaimed }

/-- SEND_BYTE on a claimed bus, for every byte and every answer (40_bit_driver.md R106 to R110): the byte most
significant bit first, one sample, the byte-boundary state, LAST_ACK 1 exactly when the sample is 0; the SDA latch is
written unless the byte is 0xFF; all else as before. -/
def Obligations.SendByteResult : Prop :=
  (∀ (v : Byte) (s : State), s.claimed = true → exec (.sendByte v) s = .next { s with
      scl := ⟨.gpio, .dir .output, .level false⟩
      sda := ⟨.gpio, .dir .input, if v = 0xFF#8 then s.sda.latch else .level false⟩
      lastAck := !s.answerAt 0
      trace := s.trace
        ++ [v.getLsbD 7, v.getLsbD 6, v.getLsbD 5, v.getLsbD 4,
            v.getLsbD 3, v.getLsbD 2, v.getLsbD 1, v.getLsbD 0].flatMap (bitEvents (halfUs s.cfg))
        ++ ackEvents (halfUs s.cfg) (s.answerAt 0)
      answers := s.answers.drop 1
      reads := s.reads + 1 })
    ∧ ∀ (v : Byte) (s : State), s.claimed = false →
        exec (.sendByte v) s = .next { s with faultCode := .notClaimed }

/-- What SEND_BYTE puts on SDA at its clock pulses: exactly nine, the eight bits most significant first and then SDA
released for the acknowledgment (20_memory.md R52; 40_bit_driver.md R107, R108). -/
def Obligations.SendByteClockPulses : Prop :=
  ∀ (v : Byte) (s : State), s.claimed = true →
    ∃ (t : State) (es : List Event), exec (.sendByte v) s = .next t ∧ t.trace = s.trace ++ es
      ∧ clockPulses (s.scl, s.sda) es
          = [bitContribution (v.getLsbD 7), bitContribution (v.getLsbD 6), bitContribution (v.getLsbD 5),
             bitContribution (v.getLsbD 4), bitContribution (v.getLsbD 3), bitContribution (v.getLsbD 2),
             bitContribution (v.getLsbD 1), bitContribution (v.getLsbD 0), .released]

/-- START followed at once by STOP leaves both lines released, independent of the prior line state
(40_bit_driver.md R104, R105; 95_test_vectors.md S2). -/
def Obligations.StartThenStopReleasesBus : Prop :=
  ∀ s : State, s.claimed = true → ∃ t u : State, exec .start s = .next t ∧ exec .stop t = .next u
    ∧ u.scl.contribution = .released ∧ u.sda.contribution = .released

/-- R113: event and wait counts of the five driver commands. -/
def Obligations.DriverEventCounts : Prop :=
  ∀ s : State, s.claimed = true →
    ∀ (i : Instr) (nDelay nRead nGpio nAll : Nat),
      (match i with
        | .driveSda true => nDelay = 1 ∧ nRead = 0 ∧ nGpio = 1 ∧ nAll = 2
        | .driveScl true => nDelay = 1 ∧ nRead = 0 ∧ nGpio = 1 ∧ nAll = 2
        | .driveSda false => nDelay = 1 ∧ nRead = 0 ∧ nGpio = 2 ∧ nAll = 3
        | .driveScl false => nDelay = 1 ∧ nRead = 0 ∧ nGpio = 2 ∧ nAll = 3
        | .start => nDelay = 4 ∧ nRead = 0 ∧ nGpio = 6 ∧ nAll = 10
        | .stop => nDelay = 3 ∧ nRead = 0 ∧ nGpio = 4 ∧ nAll = 7
        | .sendByte v => nDelay = 28 ∧ nRead = 1 ∧ nGpio = 37 + zeroBits v ∧ nAll = 66 + zeroBits v
        | _ => False) →
      ∃ (t : State) (es : List Event), exec i s = .next t ∧ t.trace = s.trace ++ es
        ∧ es.countP Event.isDelay = nDelay ∧ es.countP Event.isRead = nRead
        ∧ es.countP Event.isGpioSet = nGpio ∧ es.length = nAll
        ∧ totalWait es = nDelay * (halfUs s.cfg).toNat

/-- The stale-latch hazard of a drive low (70_reset_and_hazards.md R243): between its first two events the pin
contributes what its old latch holds. -/
def Obligations.StaleLatchGlitch : Prop :=
  ∀ s : State, s.claimed = true → ∃ t : State, exec (.driveSda false) s = .next t
    ∧ t.trace = s.trace ++ [.setDir .sda .output] ++ [.write .sda false, .delay (halfUs s.cfg)]
    ∧ (replayPins (s.scl, s.sda) [.setDir .sda .output]).2.contribution
        = (match s.sda.latch with
            | .unspecified => .unknown
            | .level true => .high
            | .level false => .low)

/-- The framing hazards of the test port, for every claimed bus whose SCL is released and whose SDA is released or driven
low: a falling SDA is a START and a rising one a STOP (00_scope.md R15), so that STOP on a released SDA makes a START
and then a STOP, START on an SDA driven low makes a STOP and then a START, and DRIVE_SDA makes one of them or none
(40_bit_driver.md R102, R104, R105; 70_reset_and_hazards.md R245). That undetermined levels are passed over and the
target's own pulls left out is the model's choice (log 22). -/
def Obligations.FramingHazards : Prop :=
  ∀ s : State, s.claimed = true → s.scl.contribution = .released →
    ∀ (i : Instr) (starts stops : Nat),
      (match i, s.sda.contribution with
        | .stop, .released => starts = 1 ∧ stops = 1
        | .stop, .low => starts = 0 ∧ stops = 1
        | .start, .released => starts = 1 ∧ stops = 0
        | .start, .low => starts = 1 ∧ stops = 1
        | .driveSda false, .released => starts = 1 ∧ stops = 0
        | .driveSda true, .released => starts = 0 ∧ stops = 0
        | .driveSda true, .low => starts = 0 ∧ stops = 1
        | .driveSda false, .low => starts = 0 ∧ stops = 0
        | _, _ => False) →
      ∃ (t : State) (es : List Event), exec i s = .next t ∧ t.trace = s.trace ++ es
        ∧ startConditions (s.scl, s.sda) es = starts ∧ stopConditions (s.scl, s.sda) es = stops

/-! ### The register transaction (41_transaction.md) -/

/-- R131: the address byte is the address shifted left by one with a write bit of 0, and no bit is lost. -/
def Obligations.AddressByteLayout : Prop :=
  (∀ a : Addr7, addressByte a = (a.setWidth 8) <<< 1 ∧ (addressByte a).getLsbD 0 = false
      ∧ (addressByte a).toNat = 2 * a.toNat)
    ∧ addressByte 0x42#7 = 0x84#8 ∧ addressByte 0x7F#7 = 0xFE#8 ∧ addressByte 0x00#7 = 0x00#8

/-- WRITE_REG when all of a budget of at least one attempt fail, at whatever bytes (41_transaction.md R130, R132,
R134, R135): OUTCOME FAILURE, ATTEMPTS_USED the budget, LAST_ACK 0, the attempts' events with a backoff between them
only, the bus idle; all else as before. -/
def Obligations.WriteRegExhausted : Prop :=
  ∀ (w : RegWrite) (n : Count) (fs : List NackPoint) (s : State), s.claimed = true →
    fs.length = n.toNat → fs ≠ [] → s.upcoming (nackSamples fs).length = nackSamples fs →
    exec (.writeReg w.addr7 w.reg w.value n) s = .next { s with
      scl := ⟨.gpio, .dir .input, .level false⟩
      sda := ⟨.gpio, .dir .input, .level false⟩
      lastAck := false
      outcome := .failure
      attemptsUsed := n
      trace := s.trace ++ exhaustedEvents s.cfg w fs
      answers := s.answers.drop (nackSamples fs).length
      reads := s.reads + (nackSamples fs).length }

/-- WRITE_REG when attempts fail at the bytes `fs` and the next one, still within the budget, is acknowledged
(41_transaction.md R130, R132, R133, R135): OUTCOME SUCCESS, no further attempt, ATTEMPTS_USED counts the successful
one, LAST_ACK 1; all else as before. -/
def Obligations.WriteRegSucceeds : Prop :=
  ∀ (w : RegWrite) (n : Count) (fs : List NackPoint) (s : State), s.claimed = true →
    fs.length < n.toNat →
    s.upcoming (nackSamples fs ++ ackedSamples).length = nackSamples fs ++ ackedSamples →
    exec (.writeReg w.addr7 w.reg w.value n) s = .next { s with
      scl := ⟨.gpio, .dir .input, .level false⟩
      sda := ⟨.gpio, .dir .input, .level false⟩
      lastAck := true
      outcome := .success
      attemptsUsed := BitVec.ofNat 32 (fs.length + 1)
      trace := s.trace ++ succeededEvents s.cfg w fs
      answers := s.answers.drop (nackSamples fs ++ ackedSamples).length
      reads := s.reads + (nackSamples fs ++ ackedSamples).length }

/-- R136: a budget of 0 runs no attempt and emits no event: OUTCOME FAILURE, ATTEMPTS_USED 0, LAST_ACK and all else
as before. -/
def Obligations.WriteRegZeroBudget : Prop :=
  ∀ (w : RegWrite) (s : State), s.claimed = true →
    exec (.writeReg w.addr7 w.reg w.value 0#32) s
      = .next { s with outcome := .failure, attemptsUsed := 0#32 }

/-- Every WRITE_REG on a claimed bus completes, whatever the target answers, in one of the two ways the rules give:
the whole budget failed, or a success within it (41_transaction.md R130, R132 to R135; 60_exceptions.md R216). -/
def Obligations.WriteRegAlwaysCompletes : Prop :=
  ∀ (w : RegWrite) (n : Count) (s : State), s.claimed = true →
    ∃ (t : State) (fs : List NackPoint), exec (.writeReg w.addr7 w.reg w.value n) s = .next t
      ∧ t.cfg = s.cfg ∧ t.scl.func = .gpio ∧ t.sda.func = .gpio ∧ t.orch = s.orch
      ∧ t.faultCode = s.faultCode ∧ t.halted = s.halted ∧ t.port = s.port
      ∧ ((t.outcome = .failure ∧ t.attemptsUsed = n ∧ fs.length = n.toNat
            ∧ s.upcoming (nackSamples fs).length = nackSamples fs
            ∧ t.trace = s.trace ++ exhaustedEvents s.cfg w fs)
          ∨ (t.outcome = .success ∧ t.attemptsUsed.toNat = fs.length + 1 ∧ fs.length < n.toNat
            ∧ s.upcoming (nackSamples fs ++ ackedSamples).length = nackSamples fs ++ ackedSamples
            ∧ t.trace = s.trace ++ succeededEvents s.cfg w fs))

/-- From a bus with both lines released, a WRITE_REG puts exactly ATTEMPTS_USED START conditions and as many STOP
conditions on the bus: none arises inside a byte (00_scope.md R15; 41_transaction.md R132, R138). That undetermined
levels are passed over and the target's own pulls left out is the model's choice (log 22). -/
def Obligations.WriteRegFraming : Prop :=
  ∀ (w : RegWrite) (n : Count) (s : State), s.scl.contribution = .released →
    s.sda.contribution = .released →
    ∃ (t : State) (es : List Event), exec (.writeReg w.addr7 w.reg w.value n) s = .next t
      ∧ t.trace = s.trace ++ es
      ∧ startConditions (s.scl, s.sda) es = t.attemptsUsed.toNat
      ∧ stopConditions (s.scl, s.sda) es = t.attemptsUsed.toNat

/-- The requested waits of a WRITE_REG: 35, 63 or 91 half periods for an attempt failed at the address, register or
value byte, 91 for a success, and one backoff between attempts (41_transaction.md R139, R135). -/
def Obligations.WriteRegWaits : Prop :=
  (∀ (w : RegWrite) (n : Count) (fs : List NackPoint) (s : State), s.claimed = true →
      fs.length = n.toNat → s.upcoming (nackSamples fs).length = nackSamples fs →
      ∃ (t : State) (es : List Event), exec (.writeReg w.addr7 w.reg w.value n) s = .next t
        ∧ t.trace = s.trace ++ es
        ∧ totalWait es = failedHalfPeriods fs * (halfUs s.cfg).toNat
            + (fs.length - 1) * s.cfg.backoffUs.toNat)
    ∧ ∀ (w : RegWrite) (n : Count) (fs : List NackPoint) (s : State), s.claimed = true →
      fs.length < n.toNat →
      s.upcoming (nackSamples fs ++ ackedSamples).length = nackSamples fs ++ ackedSamples →
      ∃ (t : State) (es : List Event), exec (.writeReg w.addr7 w.reg w.value n) s = .next t
        ∧ t.trace = s.trace ++ es
        ∧ totalWait es = (failedHalfPeriods fs + 91) * (halfUs s.cfg).toNat
            + fs.length * s.cfg.backoffUs.toNat

/-- WRITE_REG depends only on its operands, the configuration and the oracle's answers: not on OUTCOME, LAST_ACK,
ATTEMPTS_USED, STATE, the trace or the pins' latches left by earlier commands (41_transaction.md R137). -/
def Obligations.WriteRegReadsNoOldState : Prop :=
  ∀ (w : RegWrite) (n : Count) (s s' : State), s.claimed = true → s'.claimed = true →
    s.cfg = s'.cfg → s.answers = s'.answers → s.reads = s'.reads →
    ∃ (t t' : State) (es : List Event), exec (.writeReg w.addr7 w.reg w.value n) s = .next t
      ∧ exec (.writeReg w.addr7 w.reg w.value n) s' = .next t'
      ∧ t.trace = s.trace ++ es ∧ t'.trace = s'.trace ++ es ∧ t.outcome = t'.outcome
      ∧ t.attemptsUsed = t'.attemptsUsed ∧ t.answers = t'.answers ∧ t.reads = t'.reads
      ∧ (n ≠ 0#32 → t.lastAck = t'.lastAck ∧ t.scl = t'.scl ∧ t.sda = t'.sda)

/-- A WRITE_REG with budget N ends after at most N attempts of at most three bytes each: at most 3 N ACK reads and
240 N events (60_exceptions.md R216; 40_bit_driver.md R113). -/
def Obligations.WriteRegBounded : Prop :=
  ∀ (w : RegWrite) (n : Count) (s : State), s.claimed = true →
    ∃ (t : State) (es : List Event), exec (.writeReg w.addr7 w.reg w.value n) s = .next t
      ∧ t.trace = s.trace ++ es ∧ t.attemptsUsed.toNat ≤ n.toNat
      ∧ es.countP Event.isRead ≤ 3 * n.toNat ∧ es.length ≤ 240 * n.toNat

/-! ### Claim, release and bring-up (42_orchestrator.md) -/

/-- R160: CLAIM_BUS in every state: the five events, both pins GPIO and released, the latches kept, CLAIMED 1, all
else as before; it cannot fail (R161). -/
def Obligations.ClaimBusResult : Prop :=
  ∀ s : State, ∃ t : State, exec .claimBus s = .next t ∧ t.claimed = true
    ∧ t = { s with
        scl := ⟨.gpio, .dir .input, s.scl.latch⟩
        sda := ⟨.gpio, .dir .input, s.sda.latch⟩
        trace := s.trace ++
          [ .setFunc .scl .gpio, .setFunc .sda .gpio, .setDir .scl .input, .setDir .sda .input,
            .delay s.cfg.claimSettleUs ] }

/-- R162: RELEASE_BUS in every state, claimed or not: the six events, both pins ALT with direction OUT and latch 1,
CLAIMED 0, all else as before. -/
def Obligations.ReleaseBusResult : Prop :=
  ∀ s : State, ∃ t : State, exec .releaseBus s = .next t ∧ t.claimed = false
    ∧ t = { s with
        scl := ⟨.alt, .dir .output, .level true⟩
        sda := ⟨.alt, .dir .output, .level true⟩
        trace := s.trace ++
          [ .write .scl true, .setDir .scl .output, .write .sda true, .setDir .sda .output,
            .setFunc .scl .alt, .setFunc .sda .alt ] }

/-- BRINGUP when both transactions succeed within their budgets (42_orchestrator.md R150, R165, R167, R169, R170,
R172): the whole trace, STATE Done, the registers of the second transaction, the pins handed back; all else as
before. -/
def Obligations.BringupSucceeds : Prop :=
  ∀ (s : State) (vs es : List NackPoint), s.orch = .idle →
    vs.length < s.cfg.vselAttempts.toNat → es.length < s.cfg.enAttempts.toNat →
    s.upcoming (nackSamples vs ++ ackedSamples ++ (nackSamples es ++ ackedSamples)).length
      = nackSamples vs ++ ackedSamples ++ (nackSamples es ++ ackedSamples) →
    exec .bringup s = .next { s with
      scl := ⟨.alt, .dir .output, .level true⟩
      sda := ⟨.alt, .dir .output, .level true⟩
      lastAck := true
      outcome := .success
      attemptsUsed := BitVec.ofNat 32 (es.length + 1)
      orch := .done
      trace := s.trace
        ++ ([.step .claimBus] ++ claimEvents s.cfg.claimSettleUs
          ++ [.step .programVoltage] ++ succeededEvents s.cfg (vselWrite s.cfg) vs ++ [.delay s.cfg.vselSettleUs]
          ++ [.step .programEnable] ++ succeededEvents s.cfg (enWrite s.cfg) es ++ [.delay s.cfg.enSettleUs]
          ++ [.step .releaseBus] ++ releaseEvents
          ++ [.step .enableClocks] ++ mmioEvents s.cfg.clkWrites ++ [.delay s.cfg.clkSettleUs]
          ++ [.step .deassertResets] ++ mmioEvents s.cfg.rstWrites ++ [.delay s.cfg.rstSettleUs]
          ++ [.step .done])
      answers := s.answers.drop
        (nackSamples vs ++ ackedSamples ++ (nackSamples es ++ ackedSamples)).length
      reads := s.reads + (nackSamples vs ++ ackedSamples ++ (nackSamples es ++ ackedSamples)).length }

/-- BRINGUP when ProgramVoltage exhausts a budget of at least one attempt (42_orchestrator.md R163, R166, R171): no
settle delay, no ProgramEnable, no clock or reset write; ReleaseBus, then Fatal and the halt; all else as before. The
state at the halt as a next state: log 20. -/
def Obligations.BringupVoltageFails : Prop :=
  ∀ (s : State) (vs : List NackPoint), s.orch = .idle → vs ≠ [] →
    vs.length = s.cfg.vselAttempts.toNat → s.upcoming (nackSamples vs).length = nackSamples vs →
    exec .bringup s = .next { s with
      scl := ⟨.alt, .dir .output, .level true⟩
      sda := ⟨.alt, .dir .output, .level true⟩
      lastAck := false
      outcome := .failure
      attemptsUsed := s.cfg.vselAttempts
      orch := .fatal
      halted := true
      trace := s.trace
        ++ ([.step .claimBus] ++ claimEvents s.cfg.claimSettleUs
          ++ [.step .programVoltage] ++ exhaustedEvents s.cfg (vselWrite s.cfg) vs
          ++ [.step .releaseBus] ++ releaseEvents ++ [.step .fatal, .halt])
      answers := s.answers.drop (nackSamples vs).length
      reads := s.reads + (nackSamples vs).length }

/-- BRINGUP when ProgramVoltage succeeds and ProgramEnable exhausts a budget of at least one attempt
(42_orchestrator.md R163, R168, R171): the voltage settle delay only, no clock or reset write; ReleaseBus, then Fatal
and the halt; all else as before. The state at the halt as a next state: log 20. -/
def Obligations.BringupEnableFails : Prop :=
  ∀ (s : State) (vs es : List NackPoint), s.orch = .idle → es ≠ [] →
    vs.length < s.cfg.vselAttempts.toNat → es.length = s.cfg.enAttempts.toNat →
    s.upcoming (nackSamples vs ++ ackedSamples ++ nackSamples es).length
      = nackSamples vs ++ ackedSamples ++ nackSamples es →
    exec .bringup s = .next { s with
      scl := ⟨.alt, .dir .output, .level true⟩
      sda := ⟨.alt, .dir .output, .level true⟩
      lastAck := false
      outcome := .failure
      attemptsUsed := s.cfg.enAttempts
      orch := .fatal
      halted := true
      trace := s.trace
        ++ ([.step .claimBus] ++ claimEvents s.cfg.claimSettleUs
          ++ [.step .programVoltage] ++ succeededEvents s.cfg (vselWrite s.cfg) vs ++ [.delay s.cfg.vselSettleUs]
          ++ [.step .programEnable] ++ exhaustedEvents s.cfg (enWrite s.cfg) es
          ++ [.step .releaseBus] ++ releaseEvents ++ [.step .fatal, .halt])
      answers := s.answers.drop (nackSamples vs ++ ackedSamples ++ nackSamples es).length
      reads := s.reads + (nackSamples vs ++ ackedSamples ++ nackSamples es).length }

/-- Every BRINGUP in Idle ends in Done or in Fatal, whatever the target answers, with both pins handed back; its markers
are one of the three sequences of R173, and the clock and reset writes happen exactly on the way to Done
(42_orchestrator.md R163, R171, R173). In Fatal the command never completes (R171; 60_exceptions.md R216): that the
model answers the state at the halt as a next state, after which there is no step, is its own reading (log 20). -/
def Obligations.BringupEndsDoneOrFatal : Prop :=
  ∀ s : State, s.orch = .idle → ∃ (t : State) (es : List Event), exec .bringup s = .next t
    ∧ t.trace = s.trace ++ es ∧ releaseEvents <:+: es
    ∧ t.scl = ⟨.alt, .dir .output, .level true⟩ ∧ t.sda = ⟨.alt, .dir .output, .level true⟩
    ∧ ((t.orch = .done ∧ t.outcome = .success ∧ t.halted = s.halted ∧ Event.halt ∉ es
          ∧ markers es = [.claimBus, .programVoltage, .programEnable, .releaseBus, .enableClocks,
              .deassertResets, .done]
          ∧ mmioWrites es = s.cfg.clkWrites ++ s.cfg.rstWrites)
        ∨ (t.orch = .fatal ∧ t.outcome = .failure ∧ t.halted = true ∧ es.getLast? = some .halt
          ∧ (markers es = [.claimBus, .programVoltage, .releaseBus, .fatal]
              ∨ markers es = [.claimBus, .programVoltage, .programEnable, .releaseBus, .fatal])
          ∧ mmioWrites es = []))

/-- The requested wait of a successful BRINGUP is the sum of its settle delays and of its two transactions' waits
(42_orchestrator.md R176; 41_transaction.md R139). -/
def Obligations.BringupWaits : Prop :=
  ∀ (s : State) (vs es : List NackPoint), s.orch = .idle →
    vs.length < s.cfg.vselAttempts.toNat → es.length < s.cfg.enAttempts.toNat →
    s.upcoming (nackSamples vs ++ ackedSamples ++ (nackSamples es ++ ackedSamples)).length
      = nackSamples vs ++ ackedSamples ++ (nackSamples es ++ ackedSamples) →
    ∃ (t : State) (evs : List Event), exec .bringup s = .next t ∧ t.trace = s.trace ++ evs
      ∧ totalWait evs
          = s.cfg.claimSettleUs.toNat
            + ((failedHalfPeriods vs + 91) * (halfUs s.cfg).toNat + vs.length * s.cfg.backoffUs.toNat)
            + s.cfg.vselSettleUs.toNat
            + ((failedHalfPeriods es + 91) * (halfUs s.cfg).toNat + es.length * s.cfg.backoffUs.toNat)
            + s.cfg.enSettleUs.toNat + s.cfg.clkSettleUs.toNat + s.cfg.rstSettleUs.toNat

/-- BRINGUP reads no feedback: two Idle blocks with the same configuration and the same coming answers emit the same
events and end alike, whatever pins, registers and trace they began with (42_orchestrator.md R174). -/
def Obligations.BringupReadsNoFeedback : Prop :=
  ∀ s s' : State, s.orch = .idle → s'.orch = .idle → s.cfg = s'.cfg → s.answers = s'.answers →
    s.reads = s'.reads →
    ∃ (t t' : State) (es : List Event), exec .bringup s = .next t ∧ exec .bringup s' = .next t'
      ∧ t.trace = s.trace ++ es ∧ t'.trace = s'.trace ++ es ∧ t.orch = t'.orch
      ∧ t.outcome = t'.outcome ∧ t.attemptsUsed = t'.attemptsUsed ∧ t.scl = t'.scl ∧ t.sda = t'.sda

/-! ### Frames over all commands -/

/-- STATE and HALTED are written by BRINGUP only, and no other command marks a step, writes a control register or
halts (10_state.md R34, R41; 20_memory.md R50; 42_orchestrator.md R171). -/
def Obligations.OnlyBringupMovesState : Prop :=
  ∀ (i : Instr) (s t : State), i ≠ .bringup → exec i s = .next t →
    t.orch = s.orch ∧ t.halted = s.halted
      ∧ ∃ es, t.trace = s.trace ++ es ∧ markers es = [] ∧ mmioWrites es = [] ∧ Event.halt ∉ es

/-- The result registers' writers: LAST_ACK only SEND_BYTE, WRITE_REG and BRINGUP, OUTCOME and ATTEMPTS_USED only
WRITE_REG and BRINGUP, which never leave OUTCOME at NONE unless they raise a fault (10_state.md R33, R35). -/
def Obligations.ResultRegisterWriters : Prop :=
  ∀ (i : Instr) (s t : State), exec i s = .next t →
    (t.lastAck ≠ s.lastAck →
        i.mnemonic = .sendByte ∨ i.mnemonic = .writeReg ∨ i.mnemonic = .bringup)
      ∧ (t.outcome ≠ s.outcome ∨ t.attemptsUsed ≠ s.attemptsUsed →
          i.mnemonic = .writeReg ∨ i.mnemonic = .bringup)
      ∧ (i.mnemonic = .writeReg ∨ i.mnemonic = .bringup →
          t.faultCode = s.faultCode → s.faultCode = .none → t.outcome ≠ .none)

/-- The pin functions, and so CLAIMED, are changed by CLAIM_BUS, RELEASE_BUS and BRINGUP only; the driver and the
transaction never call GpioSetFunc (10_state.md R23, R24; 40_bit_driver.md R100; 41_transaction.md R137). -/
def Obligations.OnlyClaimAndReleaseSetFunctions : Prop :=
  ∀ (i : Instr) (s t : State), i.mnemonic ∉ [.claimBus, .releaseBus, .bringup] → exec i s = .next t →
    t.scl.func = s.scl.func ∧ t.sda.func = s.sda.func ∧ t.claimed = s.claimed
      ∧ ∃ es, t.trace = s.trace ++ es ∧ ∀ p f, Event.setFunc p f ∉ es

/-- No step shortens or rewrites the trace, and none changes the configuration (10_state.md R40; 00_scope.md R8). -/
def Obligations.StepExtendsTrace : Prop :=
  ∀ s t : State, step s = .next t → t.cfg = s.cfg ∧ s.trace <+: t.trace

/-! ### Invariants that every step keeps -/

/-- Between commands the bus is never driven high and never unknown while in GPIO function, and both pins have one
function (10_state.md R24, R25). -/
def Obligations.StepKeepsBusDiscipline : Prop :=
  ∀ s t : State, BusDisciplined s → step s = .next t → BusDisciplined t

/-- Halted exactly in Fatal, never halted and faulted, STATE Idle, Done or Fatal between commands (42_orchestrator.md
R151, R171; 60_exceptions.md R205). -/
def Obligations.StepKeepsStopConsistency : Prop :=
  ∀ s t : State, StopConsistent s → step s = .next t → StopConsistent t

/-- The trace tells the pins, STATE, HALTED and LAST_ACK, and goes on doing so (10_state.md R23, R33, R40, R41). -/
def Obligations.StepKeepsTraceFaithful : Prop :=
  ∀ s t : State, TraceFaithful s → step s = .next t → TraceFaithful t

/-- The reset state of every configuration meets the three invariants, and the configuration the machine is built with is
legal. -/
def Obligations.ResetMeetsInvariants : Prop :=
  (∀ p : Params, BusDisciplined (State.resetWith p) ∧ StopConsistent (State.resetWith p)
      ∧ TraceFaithful (State.resetWith p))
    ∧ State.reset.cfg.legal = true

/-! ### Reset, configuration and observation -/

/-- R43, R230: the reset values of every element of S, whatever the configuration, without an event; a platform reset
gives them from every state, stopped or not. -/
def Obligations.ResetValues : Prop :=
  ∀ s : State, s = State.reset ∨ (∃ p, s = State.resetWith p) ∨ (∃ u, s = platformReset u) →
    s.scl = ⟨.alt, .unspecified, .unspecified⟩ ∧ s.sda = ⟨.alt, .unspecified, .unspecified⟩
      ∧ s.lastAck = false ∧ s.outcome = .none ∧ s.attemptsUsed = 0#32 ∧ s.orch = .idle
      ∧ s.faultCode.code = 0x00#8 ∧ s.halted = false ∧ s.trace = [] ∧ s.statusWord = 0#32

/-- R36: the fields of STATUS, the two status offsets, 0 at every other offset, and 0 everywhere after reset. -/
def Obligations.StatusLayout : Prop :=
  ∀ s : State,
    (readStatus s 0x0).getLsbD 0 = s.lastAck
      ∧ (readStatus s 0x0).extractLsb' 1 2
          = (match s.outcome with | .none => 0b00#2 | .success => 0b01#2 | .failure => 0b10#2)
      ∧ (readStatus s 0x0).extractLsb' 3 4
          = (match s.orch with
              | .idle => 0#4 | .claimBus => 1#4 | .programVoltage => 2#4 | .programEnable => 3#4
              | .releaseBus => 4#4 | .enableClocks => 5#4 | .deassertResets => 6#4 | .done => 7#4
              | .fatal => 8#4)
      ∧ ((readStatus s 0x0).getLsbD 7 = true ↔ s.scl.func = .gpio ∧ s.sda.func = .gpio)
      ∧ (readStatus s 0x0).extractLsb' 8 8
          = (match s.faultCode with
              | .none => 0x00#8 | .illegalCmd => 0x01#8 | .notClaimed => 0x02#8 | .reentry => 0x03#8)
      ∧ (readStatus s 0x0).getLsbD 16 = s.halted
      ∧ (readStatus s 0x0).extractLsb' 17 15 = 0#15
      ∧ readStatus s 0x4 = s.attemptsUsed
      ∧ (∀ off : Nat, off ≠ 0x0 → off ≠ 0x4 → readStatus s off = 0#32)
      ∧ ∀ (p : Params) (off : Nat), readStatus (State.resetWith p) off = 0#32

/-- R9: the half period is floor(500 / P_FREQ_KHZ), with the rule's examples. -/
def Obligations.HalfPeriod : Prop :=
  (∀ p : Params, 1 ≤ p.freqKhz → ∀ q : Nat,
      (halfUs p).toNat = q ↔ q * p.freqKhz ≤ 500 ∧ 500 < (q + 1) * p.freqKhz)
    ∧ halfUs { Params.sample with freqKhz := 100 } = 5#32
    ∧ halfUs { Params.sample with freqKhz := 400 } = 1#32
    ∧ halfUs { Params.sample with freqKhz := 500 } = 1#32

/-- THE BLOCK is instantiated, at reset, exactly with a legal configuration and refused with any other
(00_scope.md R8, R10; 20_memory.md R55, R57). A configuration is legal exactly when its frequency is 1 to 500 kHz, its
pins are distinct, it has three clock writes and a reset write, its addresses are multiples of 4, and its settle times,
backoff and budgets lie in the ranges of the table of R8; its half period is then positive. That a configuration is
refused for these last ranges too is the model's choice (log 3). -/
def Obligations.OnlyLegalConfigurations : Prop :=
  (∀ p : Params, p.legal = true → instantiate p = .next (State.resetWith p))
    ∧ (∀ p : Params, p.legal = false → instantiate p = .refused .illegalConfiguration)
    ∧ (∀ p : Params, p.legal = true ↔
        (1 ≤ p.freqKhz ∧ p.freqKhz ≤ 500 ∧ p.sclPin ≠ p.sdaPin ∧ p.clkWrites.length = 3 ∧ p.rstWrites ≠ []
          ∧ (∀ w ∈ p.clkWrites ++ p.rstWrites, w.addr.toNat % 4 = 0))
        ∧ (100 ≤ p.backoffUs.toNat ∧ p.backoffUs.toNat ≤ 999)
        ∧ (10 ≤ p.claimSettleUs.toNat ∧ p.claimSettleUs.toNat ≤ 99)
        ∧ (100 ≤ p.vselSettleUs.toNat ∧ p.vselSettleUs.toNat ≤ 999)
        ∧ (500 ≤ p.enSettleUs.toNat ∧ p.enSettleUs.toNat ≤ 5000)
        ∧ (10 ≤ p.clkSettleUs.toNat ∧ p.clkSettleUs.toNat ≤ 99)
        ∧ 1 ≤ p.rstSettleUs.toNat ∧ 1 ≤ p.vselAttempts.toNat ∧ 1 ≤ p.enAttempts.toNat)
    ∧ (∀ p : Params, p.legal = true → 0 < (halfUs p).toNat)
    ∧ ∀ p : Params, (halfUs p).toNat = 0 → instantiate p = .refused .illegalConfiguration

/-- R27: a read returns 0 where THE BLOCK drives the line low and otherwise the oracle's next answer, whichever it is; it
changes no pin (20_memory.md R56). -/
def Obligations.ReadRule : Prop :=
  ∀ (p : Line) (s : State),
    ((s.pin p).contribution = .low →
        gpioRead p s = (false, { s with trace := s.trace ++ [.read p false] }))
      ∧ ((s.pin p).contribution ≠ .low → ∀ (b : Level) (rest : List Level), s.answers = b :: rest →
          gpioRead p s = (b, { s with
            trace := s.trace ++ [.read p b], answers := rest, reads := s.reads + 1 }))
      ∧ ((s.pin p).contribution ≠ .low → s.answers = [] →
          gpioRead p s = (Config.busOracle s.reads, { s with
            trace := s.trace ++ [.read p (Config.busOracle s.reads)], reads := s.reads + 1 }))

/-- The level of a line is the wired-AND of THE BLOCK's contribution and the target, and is not determined under
contention, in peripheral function, or with a direction or driven latch of no value (10_state.md R25, R26). That a high
drive with the target released reads 1 is the model's inference (log 13). -/
def Obligations.LineLevels : Prop :=
  ∀ (v : Pin) (pulls : Bool),
    (v.func = .alt → lineLevel v.contribution pulls = .undetermined)
      ∧ (v.func = .gpio → v.dir = .unspecified → lineLevel v.contribution pulls = .undetermined)
      ∧ (v.func = .gpio → v.dir = .dir .input → lineLevel v.contribution pulls = .level (!pulls))
      ∧ (v.func = .gpio → v.dir = .dir .output → v.latch = .level false →
          lineLevel v.contribution pulls = .level false)
      ∧ (v.func = .gpio → v.dir = .dir .output → v.latch = .level true →
          lineLevel v.contribution pulls = if pulls then .undetermined else .level true)
      ∧ (v.func = .gpio → v.dir = .dir .output → v.latch = .unspecified →
          lineLevel v.contribution pulls = .undetermined)
end

