-- ==== Sys2Proof/Laws/State.lean ====
section
/-! SUPPORT. One lemma for each field of State and each named update of it, so that no proof
unfolds a record update; and the two accessors of a pin. -/

namespace Sys2Proof.Machine

/-! ### emit -/

@[simp] theorem emit_cfg (e : Event) (s : State) : (emit e s).cfg = s.cfg := rfl
@[simp] theorem emit_scl (e : Event) (s : State) : (emit e s).scl = s.scl := rfl
@[simp] theorem emit_sda (e : Event) (s : State) : (emit e s).sda = s.sda := rfl
@[simp] theorem emit_lastAck (e : Event) (s : State) : (emit e s).lastAck = s.lastAck := rfl
@[simp] theorem emit_outcome (e : Event) (s : State) : (emit e s).outcome = s.outcome := rfl
@[simp] theorem emit_attemptsUsed (e : Event) (s : State) : (emit e s).attemptsUsed = s.attemptsUsed := rfl
@[simp] theorem emit_orch (e : Event) (s : State) : (emit e s).orch = s.orch := rfl
@[simp] theorem emit_faultCode (e : Event) (s : State) : (emit e s).faultCode = s.faultCode := rfl
@[simp] theorem emit_halted (e : Event) (s : State) : (emit e s).halted = s.halted := rfl
@[simp] theorem emit_trace (e : Event) (s : State) : (emit e s).trace = s.trace ++ [e] := rfl
@[simp] theorem emit_port (e : Event) (s : State) : (emit e s).port = s.port := rfl
@[simp] theorem emit_answers (e : Event) (s : State) : (emit e s).answers = s.answers := rfl
@[simp] theorem emit_reads (e : Event) (s : State) : (emit e s).reads = s.reads := rfl

/-! ### setPin_scl -/

@[simp] theorem setPin_scl_cfg (v : Pin) (s : State) : (setPin .scl v s).cfg = s.cfg := rfl
@[simp] theorem setPin_scl_scl (v : Pin) (s : State) : (setPin .scl v s).scl = v := rfl
@[simp] theorem setPin_scl_sda (v : Pin) (s : State) : (setPin .scl v s).sda = s.sda := rfl
@[simp] theorem setPin_scl_lastAck (v : Pin) (s : State) : (setPin .scl v s).lastAck = s.lastAck := rfl
@[simp] theorem setPin_scl_outcome (v : Pin) (s : State) : (setPin .scl v s).outcome = s.outcome := rfl
@[simp] theorem setPin_scl_attemptsUsed (v : Pin) (s : State) : (setPin .scl v s).attemptsUsed = s.attemptsUsed := rfl
@[simp] theorem setPin_scl_orch (v : Pin) (s : State) : (setPin .scl v s).orch = s.orch := rfl
@[simp] theorem setPin_scl_faultCode (v : Pin) (s : State) : (setPin .scl v s).faultCode = s.faultCode := rfl
@[simp] theorem setPin_scl_halted (v : Pin) (s : State) : (setPin .scl v s).halted = s.halted := rfl
@[simp] theorem setPin_scl_trace (v : Pin) (s : State) : (setPin .scl v s).trace = s.trace := rfl
@[simp] theorem setPin_scl_port (v : Pin) (s : State) : (setPin .scl v s).port = s.port := rfl
@[simp] theorem setPin_scl_answers (v : Pin) (s : State) : (setPin .scl v s).answers = s.answers := rfl
@[simp] theorem setPin_scl_reads (v : Pin) (s : State) : (setPin .scl v s).reads = s.reads := rfl

/-! ### setPin_sda -/

@[simp] theorem setPin_sda_cfg (v : Pin) (s : State) : (setPin .sda v s).cfg = s.cfg := rfl
@[simp] theorem setPin_sda_scl (v : Pin) (s : State) : (setPin .sda v s).scl = s.scl := rfl
@[simp] theorem setPin_sda_sda (v : Pin) (s : State) : (setPin .sda v s).sda = v := rfl
@[simp] theorem setPin_sda_lastAck (v : Pin) (s : State) : (setPin .sda v s).lastAck = s.lastAck := rfl
@[simp] theorem setPin_sda_outcome (v : Pin) (s : State) : (setPin .sda v s).outcome = s.outcome := rfl
@[simp] theorem setPin_sda_attemptsUsed (v : Pin) (s : State) : (setPin .sda v s).attemptsUsed = s.attemptsUsed := rfl
@[simp] theorem setPin_sda_orch (v : Pin) (s : State) : (setPin .sda v s).orch = s.orch := rfl
@[simp] theorem setPin_sda_faultCode (v : Pin) (s : State) : (setPin .sda v s).faultCode = s.faultCode := rfl
@[simp] theorem setPin_sda_halted (v : Pin) (s : State) : (setPin .sda v s).halted = s.halted := rfl
@[simp] theorem setPin_sda_trace (v : Pin) (s : State) : (setPin .sda v s).trace = s.trace := rfl
@[simp] theorem setPin_sda_port (v : Pin) (s : State) : (setPin .sda v s).port = s.port := rfl
@[simp] theorem setPin_sda_answers (v : Pin) (s : State) : (setPin .sda v s).answers = s.answers := rfl
@[simp] theorem setPin_sda_reads (v : Pin) (s : State) : (setPin .sda v s).reads = s.reads := rfl

/-! ### dropAnswers -/

@[simp] theorem dropAnswers_cfg (n : Nat) (s : State) : (s.dropAnswers n).cfg = s.cfg := rfl
@[simp] theorem dropAnswers_scl (n : Nat) (s : State) : (s.dropAnswers n).scl = s.scl := rfl
@[simp] theorem dropAnswers_sda (n : Nat) (s : State) : (s.dropAnswers n).sda = s.sda := rfl
@[simp] theorem dropAnswers_lastAck (n : Nat) (s : State) : (s.dropAnswers n).lastAck = s.lastAck := rfl
@[simp] theorem dropAnswers_outcome (n : Nat) (s : State) : (s.dropAnswers n).outcome = s.outcome := rfl
@[simp] theorem dropAnswers_attemptsUsed (n : Nat) (s : State) : (s.dropAnswers n).attemptsUsed = s.attemptsUsed := rfl
@[simp] theorem dropAnswers_orch (n : Nat) (s : State) : (s.dropAnswers n).orch = s.orch := rfl
@[simp] theorem dropAnswers_faultCode (n : Nat) (s : State) : (s.dropAnswers n).faultCode = s.faultCode := rfl
@[simp] theorem dropAnswers_halted (n : Nat) (s : State) : (s.dropAnswers n).halted = s.halted := rfl
@[simp] theorem dropAnswers_trace (n : Nat) (s : State) : (s.dropAnswers n).trace = s.trace := rfl
@[simp] theorem dropAnswers_port (n : Nat) (s : State) : (s.dropAnswers n).port = s.port := rfl
@[simp] theorem dropAnswers_answers (n : Nat) (s : State) : (s.dropAnswers n).answers = s.answers.drop n := rfl
@[simp] theorem dropAnswers_reads (n : Nat) (s : State) : (s.dropAnswers n).reads = s.reads + n := rfl

/-! ### setLastAck -/

@[simp] theorem setLastAck_cfg (a : Bool) (s : State) : (setLastAck a s).cfg = s.cfg := rfl
@[simp] theorem setLastAck_scl (a : Bool) (s : State) : (setLastAck a s).scl = s.scl := rfl
@[simp] theorem setLastAck_sda (a : Bool) (s : State) : (setLastAck a s).sda = s.sda := rfl
@[simp] theorem setLastAck_lastAck (a : Bool) (s : State) : (setLastAck a s).lastAck = a := rfl
@[simp] theorem setLastAck_outcome (a : Bool) (s : State) : (setLastAck a s).outcome = s.outcome := rfl
@[simp] theorem setLastAck_attemptsUsed (a : Bool) (s : State) : (setLastAck a s).attemptsUsed = s.attemptsUsed := rfl
@[simp] theorem setLastAck_orch (a : Bool) (s : State) : (setLastAck a s).orch = s.orch := rfl
@[simp] theorem setLastAck_faultCode (a : Bool) (s : State) : (setLastAck a s).faultCode = s.faultCode := rfl
@[simp] theorem setLastAck_halted (a : Bool) (s : State) : (setLastAck a s).halted = s.halted := rfl
@[simp] theorem setLastAck_trace (a : Bool) (s : State) : (setLastAck a s).trace = s.trace := rfl
@[simp] theorem setLastAck_port (a : Bool) (s : State) : (setLastAck a s).port = s.port := rfl
@[simp] theorem setLastAck_answers (a : Bool) (s : State) : (setLastAck a s).answers = s.answers := rfl
@[simp] theorem setLastAck_reads (a : Bool) (s : State) : (setLastAck a s).reads = s.reads := rfl

/-! ### setTxResult -/

@[simp] theorem setTxResult_cfg (r : TxOutcome) (k : Count) (s : State) : (setTxResult r k s).cfg = s.cfg := rfl
@[simp] theorem setTxResult_scl (r : TxOutcome) (k : Count) (s : State) : (setTxResult r k s).scl = s.scl := rfl
@[simp] theorem setTxResult_sda (r : TxOutcome) (k : Count) (s : State) : (setTxResult r k s).sda = s.sda := rfl
@[simp] theorem setTxResult_lastAck (r : TxOutcome) (k : Count) (s : State) : (setTxResult r k s).lastAck = s.lastAck := rfl
@[simp] theorem setTxResult_outcome (r : TxOutcome) (k : Count) (s : State) : (setTxResult r k s).outcome = r := rfl
@[simp] theorem setTxResult_attemptsUsed (r : TxOutcome) (k : Count) (s : State) : (setTxResult r k s).attemptsUsed = k := rfl
@[simp] theorem setTxResult_orch (r : TxOutcome) (k : Count) (s : State) : (setTxResult r k s).orch = s.orch := rfl
@[simp] theorem setTxResult_faultCode (r : TxOutcome) (k : Count) (s : State) : (setTxResult r k s).faultCode = s.faultCode := rfl
@[simp] theorem setTxResult_halted (r : TxOutcome) (k : Count) (s : State) : (setTxResult r k s).halted = s.halted := rfl
@[simp] theorem setTxResult_trace (r : TxOutcome) (k : Count) (s : State) : (setTxResult r k s).trace = s.trace := rfl
@[simp] theorem setTxResult_port (r : TxOutcome) (k : Count) (s : State) : (setTxResult r k s).port = s.port := rfl
@[simp] theorem setTxResult_answers (r : TxOutcome) (k : Count) (s : State) : (setTxResult r k s).answers = s.answers := rfl
@[simp] theorem setTxResult_reads (r : TxOutcome) (k : Count) (s : State) : (setTxResult r k s).reads = s.reads := rfl

/-! ### raiseFault -/

@[simp] theorem raiseFault_cfg (c : FaultCode) (s : State) : (raiseFault c s).cfg = s.cfg := rfl
@[simp] theorem raiseFault_scl (c : FaultCode) (s : State) : (raiseFault c s).scl = s.scl := rfl
@[simp] theorem raiseFault_sda (c : FaultCode) (s : State) : (raiseFault c s).sda = s.sda := rfl
@[simp] theorem raiseFault_lastAck (c : FaultCode) (s : State) : (raiseFault c s).lastAck = s.lastAck := rfl
@[simp] theorem raiseFault_outcome (c : FaultCode) (s : State) : (raiseFault c s).outcome = s.outcome := rfl
@[simp] theorem raiseFault_attemptsUsed (c : FaultCode) (s : State) : (raiseFault c s).attemptsUsed = s.attemptsUsed := rfl
@[simp] theorem raiseFault_orch (c : FaultCode) (s : State) : (raiseFault c s).orch = s.orch := rfl
@[simp] theorem raiseFault_faultCode (c : FaultCode) (s : State) : (raiseFault c s).faultCode = c := rfl
@[simp] theorem raiseFault_halted (c : FaultCode) (s : State) : (raiseFault c s).halted = s.halted := rfl
@[simp] theorem raiseFault_trace (c : FaultCode) (s : State) : (raiseFault c s).trace = s.trace := rfl
@[simp] theorem raiseFault_port (c : FaultCode) (s : State) : (raiseFault c s).port = s.port := rfl
@[simp] theorem raiseFault_answers (c : FaultCode) (s : State) : (raiseFault c s).answers = s.answers := rfl
@[simp] theorem raiseFault_reads (c : FaultCode) (s : State) : (raiseFault c s).reads = s.reads := rfl

/-! ### fatalHalt -/

@[simp] theorem fatalHalt_cfg (s : State) : (fatalHalt s).cfg = s.cfg := rfl
@[simp] theorem fatalHalt_scl (s : State) : (fatalHalt s).scl = s.scl := rfl
@[simp] theorem fatalHalt_sda (s : State) : (fatalHalt s).sda = s.sda := rfl
@[simp] theorem fatalHalt_lastAck (s : State) : (fatalHalt s).lastAck = s.lastAck := rfl
@[simp] theorem fatalHalt_outcome (s : State) : (fatalHalt s).outcome = s.outcome := rfl
@[simp] theorem fatalHalt_attemptsUsed (s : State) : (fatalHalt s).attemptsUsed = s.attemptsUsed := rfl
@[simp] theorem fatalHalt_orch (s : State) : (fatalHalt s).orch = s.orch := rfl
@[simp] theorem fatalHalt_faultCode (s : State) : (fatalHalt s).faultCode = s.faultCode := rfl
@[simp] theorem fatalHalt_halted (s : State) : (fatalHalt s).halted = true := rfl
@[simp] theorem fatalHalt_trace (s : State) : (fatalHalt s).trace = s.trace ++ [.halt] := rfl
@[simp] theorem fatalHalt_port (s : State) : (fatalHalt s).port = s.port := rfl
@[simp] theorem fatalHalt_answers (s : State) : (fatalHalt s).answers = s.answers := rfl
@[simp] theorem fatalHalt_reads (s : State) : (fatalHalt s).reads = s.reads := rfl

/-! ### enter -/

@[simp] theorem enter_cfg (st : OrchState) (s : State) : (enter st s).cfg = s.cfg := rfl
@[simp] theorem enter_scl (st : OrchState) (s : State) : (enter st s).scl = s.scl := rfl
@[simp] theorem enter_sda (st : OrchState) (s : State) : (enter st s).sda = s.sda := rfl
@[simp] theorem enter_lastAck (st : OrchState) (s : State) : (enter st s).lastAck = s.lastAck := rfl
@[simp] theorem enter_outcome (st : OrchState) (s : State) : (enter st s).outcome = s.outcome := rfl
@[simp] theorem enter_attemptsUsed (st : OrchState) (s : State) : (enter st s).attemptsUsed = s.attemptsUsed := rfl
@[simp] theorem enter_orch (st : OrchState) (s : State) : (enter st s).orch = st := rfl
@[simp] theorem enter_faultCode (st : OrchState) (s : State) : (enter st s).faultCode = s.faultCode := rfl
@[simp] theorem enter_halted (st : OrchState) (s : State) : (enter st s).halted = s.halted := rfl
@[simp] theorem enter_trace (st : OrchState) (s : State) : (enter st s).trace = s.trace ++ [.step st] := rfl
@[simp] theorem enter_port (st : OrchState) (s : State) : (enter st s).port = s.port := rfl
@[simp] theorem enter_answers (st : OrchState) (s : State) : (enter st s).answers = s.answers := rfl
@[simp] theorem enter_reads (st : OrchState) (s : State) : (enter st s).reads = s.reads := rfl

/-! ### presentNext -/

@[simp] theorem presentNext_cfg (c : CmdWord) (s : State) : (presentNext c s).cfg = s.cfg := rfl
@[simp] theorem presentNext_scl (c : CmdWord) (s : State) : (presentNext c s).scl = s.scl := rfl
@[simp] theorem presentNext_sda (c : CmdWord) (s : State) : (presentNext c s).sda = s.sda := rfl
@[simp] theorem presentNext_lastAck (c : CmdWord) (s : State) : (presentNext c s).lastAck = s.lastAck := rfl
@[simp] theorem presentNext_outcome (c : CmdWord) (s : State) : (presentNext c s).outcome = s.outcome := rfl
@[simp] theorem presentNext_attemptsUsed (c : CmdWord) (s : State) : (presentNext c s).attemptsUsed = s.attemptsUsed := rfl
@[simp] theorem presentNext_orch (c : CmdWord) (s : State) : (presentNext c s).orch = s.orch := rfl
@[simp] theorem presentNext_faultCode (c : CmdWord) (s : State) : (presentNext c s).faultCode = s.faultCode := rfl
@[simp] theorem presentNext_halted (c : CmdWord) (s : State) : (presentNext c s).halted = s.halted := rfl
@[simp] theorem presentNext_trace (c : CmdWord) (s : State) : (presentNext c s).trace = s.trace := rfl
@[simp] theorem presentNext_port (c : CmdWord) (s : State) : (presentNext c s).port = c :: s.port := rfl
@[simp] theorem presentNext_answers (c : CmdWord) (s : State) : (presentNext c s).answers = s.answers := rfl
@[simp] theorem presentNext_reads (c : CmdWord) (s : State) : (presentNext c s).reads = s.reads := rfl

/-! ### hostPresent -/

/-- A running block: the word is the last on the port. -/
theorem hostPresent_running (c : CmdWord) {s : State} (h : stopReason s = none) :
    hostPresent c s = { s with port := s.port ++ [c] } := by simp [hostPresent, h]

/-- A stopped block: nothing (60_exceptions.md R205). -/
theorem hostPresent_stopped (c : CmdWord) {s : State} {r : Fault} (h : stopReason s = some r) :
    hostPresent c s = s := by simp [hostPresent, h]

@[simp] theorem hostPresent_cfg (c : CmdWord) (s : State) : (hostPresent c s).cfg = s.cfg := by
  unfold hostPresent; split <;> rfl
@[simp] theorem hostPresent_scl (c : CmdWord) (s : State) : (hostPresent c s).scl = s.scl := by
  unfold hostPresent; split <;> rfl
@[simp] theorem hostPresent_sda (c : CmdWord) (s : State) : (hostPresent c s).sda = s.sda := by
  unfold hostPresent; split <;> rfl
@[simp] theorem hostPresent_lastAck (c : CmdWord) (s : State) : (hostPresent c s).lastAck = s.lastAck := by
  unfold hostPresent; split <;> rfl
@[simp] theorem hostPresent_outcome (c : CmdWord) (s : State) : (hostPresent c s).outcome = s.outcome := by
  unfold hostPresent; split <;> rfl
@[simp] theorem hostPresent_attemptsUsed (c : CmdWord) (s : State) : (hostPresent c s).attemptsUsed = s.attemptsUsed := by
  unfold hostPresent; split <;> rfl
@[simp] theorem hostPresent_orch (c : CmdWord) (s : State) : (hostPresent c s).orch = s.orch := by
  unfold hostPresent; split <;> rfl
@[simp] theorem hostPresent_faultCode (c : CmdWord) (s : State) : (hostPresent c s).faultCode = s.faultCode := by
  unfold hostPresent; split <;> rfl
@[simp] theorem hostPresent_halted (c : CmdWord) (s : State) : (hostPresent c s).halted = s.halted := by
  unfold hostPresent; split <;> rfl
@[simp] theorem hostPresent_trace (c : CmdWord) (s : State) : (hostPresent c s).trace = s.trace := by
  unfold hostPresent; split <;> rfl
@[simp] theorem hostPresent_answers (c : CmdWord) (s : State) : (hostPresent c s).answers = s.answers := by
  unfold hostPresent; split <;> rfl
@[simp] theorem hostPresent_reads (c : CmdWord) (s : State) : (hostPresent c s).reads = s.reads := by
  unfold hostPresent; split <;> rfl

/-! ### platformReset -/

@[simp] theorem platformReset_cfg (s : State) : (platformReset s).cfg = s.cfg := rfl
@[simp] theorem platformReset_scl (s : State) : (platformReset s).scl = Pin.atReset := rfl
@[simp] theorem platformReset_sda (s : State) : (platformReset s).sda = Pin.atReset := rfl
@[simp] theorem platformReset_lastAck (s : State) : (platformReset s).lastAck = false := rfl
@[simp] theorem platformReset_outcome (s : State) : (platformReset s).outcome = .none := rfl
@[simp] theorem platformReset_attemptsUsed (s : State) : (platformReset s).attemptsUsed = 0#32 := rfl
@[simp] theorem platformReset_orch (s : State) : (platformReset s).orch = .idle := rfl
@[simp] theorem platformReset_faultCode (s : State) : (platformReset s).faultCode = .none := rfl
@[simp] theorem platformReset_halted (s : State) : (platformReset s).halted = false := rfl
@[simp] theorem platformReset_trace (s : State) : (platformReset s).trace = [] := rfl
@[simp] theorem platformReset_port (s : State) : (platformReset s).port = [] := rfl
@[simp] theorem platformReset_answers (s : State) : (platformReset s).answers = s.answers := rfl
@[simp] theorem platformReset_reads (s : State) : (platformReset s).reads = s.reads := rfl

/-! ### Accessors -/

@[simp] theorem pin_scl (s : State) : s.pin .scl = s.scl := rfl
@[simp] theorem pin_sda (s : State) : s.pin .sda = s.sda := rfl

/-- A state is determined by its thirteen fields. -/
theorem state_ext {s t : State} (h1 : s.cfg = t.cfg) (h2 : s.scl = t.scl) (h3 : s.sda = t.sda)
    (h4 : s.lastAck = t.lastAck) (h5 : s.outcome = t.outcome) (h6 : s.attemptsUsed = t.attemptsUsed)
    (h7 : s.orch = t.orch) (h8 : s.faultCode = t.faultCode) (h9 : s.halted = t.halted)
    (h10 : s.trace = t.trace) (h11 : s.port = t.port) (h12 : s.answers = t.answers)
    (h13 : s.reads = t.reads) : s = t := by
  cases s; cases t; simp_all

end Sys2Proof.Machine
end

