-- ==== Sys2Proof/Laws/Ops.lean ====
section
/-! SUPPORT. One lemma for each shared operation of Machine/Ops.lean that says everything it does: the state
it gives, as an update of the fields it changes. Later proofs cite these and unfold no operation. -/

namespace Sys2Proof.Machine

/-! ### Event primitives -/

theorem gpioSetFunc_scl (f : PinFunc) (s : State) : gpioSetFunc .scl f s =
    { s with scl := { s.scl with func := f }, trace := s.trace ++ [.setFunc .scl f] } := rfl

theorem gpioSetFunc_sda (f : PinFunc) (s : State) : gpioSetFunc .sda f s =
    { s with sda := { s.sda with func := f }, trace := s.trace ++ [.setFunc .sda f] } := rfl

theorem gpioSetDir_scl (d : Dir) (s : State) : gpioSetDir .scl d s =
    { s with scl := { s.scl with dir := .dir d }, trace := s.trace ++ [.setDir .scl d] } := rfl

theorem gpioSetDir_sda (d : Dir) (s : State) : gpioSetDir .sda d s =
    { s with sda := { s.sda with dir := .dir d }, trace := s.trace ++ [.setDir .sda d] } := rfl

theorem gpioWrite_scl (b : Level) (s : State) : gpioWrite .scl b s =
    { s with scl := { s.scl with latch := .level b }, trace := s.trace ++ [.write .scl b] } := rfl

theorem gpioWrite_sda (b : Level) (s : State) : gpioWrite .sda b s =
    { s with sda := { s.sda with latch := .level b }, trace := s.trace ++ [.write .sda b] } := rfl

theorem delay_eq (n : Micros) (s : State) :
    delay n s = { s with trace := s.trace ++ [.delay n] } := rfl

/-- A released pin, in whatever function, never contributes 0. -/
theorem contribution_input (f : PinFunc) (l : PinLatch) :
    Pin.contribution ⟨f, .dir .input, l⟩ ≠ .low := by
  cases f <;> simp [Pin.contribution]

/-- A read of a line THE BLOCK does not drive low is a draw. -/
theorem gpioRead_draw (p : Line) (s : State) (b : Level) (h : (s.pin p).contribution ≠ .low)
    (hb : s.answerAt 0 = b) : gpioRead p s = (b, { s with
      trace := s.trace ++ [.read p b], answers := s.answers.drop 1, reads := s.reads + 1 }) := by
  simp [gpioRead, h, hb, emit, State.dropAnswers]

theorem memWrites_eq (ws : List MmioPair) (s : State) :
    memWrites ws s = { s with trace := s.trace ++ mmioEvents ws } := by
  induction ws generalizing s with
  | nil => simp [memWrites, mmioEvents]
  | cons w ws ih =>
    have h : memWrites (w :: ws) s = memWrites ws (memWrite w s) := rfl
    rw [h, ih]
    simp [memWrite, emit, mmioEvents]

/-! ### Coming answers -/

theorem getElem?_drop_drop {α : Type} (l : List α) (n i : Nat) : (l.drop n)[i]? = l[n + i]? := by
  simp

/-- Drawing moves the coming answers forward. -/
theorem answerAt_after (s t : State) (n i : Nat) (ha : t.answers = s.answers.drop n)
    (hr : t.reads = s.reads + n) : t.answerAt i = s.answerAt (n + i) := by
  simp only [State.answerAt, ha, hr, getElem?_drop_drop, Nat.add_assoc]

theorem upcoming_zero (s : State) : s.upcoming 0 = [] := rfl

theorem upcoming_length (s : State) (n : Nat) : (s.upcoming n).length = n := by
  simp [State.upcoming]

theorem upcoming_add (s : State) (m n : Nat) :
    s.upcoming (m + n) = s.upcoming m ++ (s.dropAnswers m).upcoming n := by
  simp only [State.upcoming, List.range_add, List.map_append, List.map_map]
  congr 1
  apply List.map_congr_left
  intro i _
  exact (answerAt_after s (s.dropAnswers m) m i rfl rfl).symm

/-- The coming answers depend on the answer queue and the number of draws alone. -/
theorem upcoming_congr (s t : State) (n : Nat) (ha : s.answers = t.answers) (hr : s.reads = t.reads) :
    s.upcoming n = t.upcoming n := by
  simp [State.upcoming, State.answerAt, ha, hr]

/-! ### The bit-level driver -/

/-- A pin after `DriveLine` (40_bit_driver.md R100). -/
def Pin.driven (v : Pin) (level : Level) : Pin :=
  if level then { v with dir := .dir .input } else { v with dir := .dir .output, latch := .level false }

theorem driveLine_scl (level : Level) (s : State) : driveLine .scl level s =
    { s with scl := s.scl.driven level, trace := s.trace ++ driveEvents (halfUs s.cfg) .scl level } := by
  cases level <;>
    simp [driveLine, delay_eq, gpioSetDir_scl, gpioWrite_scl, Pin.driven, driveEvents]

theorem driveLine_sda (level : Level) (s : State) : driveLine .sda level s =
    { s with sda := s.sda.driven level, trace := s.trace ++ driveEvents (halfUs s.cfg) .sda level } := by
  cases level <;>
    simp [driveLine, delay_eq, gpioSetDir_sda, gpioWrite_sda, Pin.driven, driveEvents]

/-- START leaves both lines driven low, from any pin state (40_bit_driver.md R104). -/
theorem startCondition_eq (s : State) : startCondition s =
    { s with
      scl := { s.scl with dir := .dir .output, latch := .level false }
      sda := { s.sda with dir := .dir .output, latch := .level false }
      trace := s.trace ++ startEvents (halfUs s.cfg) } := by
  simp [startCondition, driveLine_scl, driveLine_sda, Pin.driven, driveEvents, startEvents]

/-- STOP leaves both lines released, from any pin state; it writes the SDA latch, not the SCL latch
(40_bit_driver.md R105). -/
theorem stopCondition_eq (s : State) : stopCondition s =
    { s with
      scl := { s.scl with dir := .dir .input }
      sda := { s.sda with dir := .dir .input, latch := .level false }
      trace := s.trace ++ stopEvents (halfUs s.cfg) } := by
  simp [stopCondition, driveLine_scl, driveLine_sda, Pin.driven, driveEvents, stopEvents]

theorem shiftBit_eq (b : Level) (s : State) : shiftBit b s =
    { s with
      scl := { s.scl with dir := .dir .output, latch := .level false }
      sda := s.sda.driven b
      trace := s.trace ++ bitEvents (halfUs s.cfg) b } := by
  simp [shiftBit, driveLine_scl, driveLine_sda, Pin.driven, driveEvents, bitEvents]

/-- The ACK phase draws one answer and ends with SCL driven low and SDA released
(40_bit_driver.md R108, R109). -/
theorem ackPhase_eq (s : State) : ackPhase s = (ackOf (s.answerAt 0), { s with
    scl := { s.scl with dir := .dir .output, latch := .level false }
    sda := { s.sda with dir := .dir .input }
    trace := s.trace ++ ackEvents (halfUs s.cfg) (s.answerAt 0)
    answers := s.answers.drop 1
    reads := s.reads + 1 }) := by
  have hr := gpioRead_draw .sda (driveLine .scl true (driveLine .sda true s)) (s.answerAt 0)
    (by simp [driveLine_scl, driveLine_sda, Pin.driven, contribution_input])
    (by simp [driveLine_scl, driveLine_sda, State.answerAt])
  simp only [ackPhase, hr]
  simp [driveLine_scl, driveLine_sda, Pin.driven, ackEvents]

/-- Sending a list of bits one after the other. -/
def sendBits (bs : List Level) (s : State) : State := bs.foldl (fun s b => shiftBit b s) s

theorem shiftBits_eq_sendBits (v : Byte) (s : State) :
    shiftBits 8 { shift := v, bitcnt := 0 } s = sendBits (msbFirst v) s := rfl

theorem sendBits_eq (bs : List Level) (s : State) (h : bs ≠ []) : sendBits bs s =
    { s with
      scl := { s.scl with dir := .dir .output, latch := .level false }
      sda := bs.foldl Pin.driven s.sda
      trace := s.trace ++ bs.flatMap (bitEvents (halfUs s.cfg)) } := by
  induction bs generalizing s with
  | nil => exact absurd rfl h
  | cons b bs ih =>
    have hs : sendBits (b :: bs) s = sendBits bs (shiftBit b s) := rfl
    rw [hs]
    by_cases hb : bs = []
    · subst hb
      simp [sendBits, shiftBit_eq]
    · rw [ih _ hb, shiftBit_eq]
      simp

/-- The SDA latch is written by a 0 bit only (40_bit_driver.md R100). -/
theorem foldl_driven (bs : List Level) (v : Pin) :
    (bs.foldl Pin.driven v).func = v.func
      ∧ (bs.foldl Pin.driven v).latch = if bs.all id then v.latch else .level false := by
  induction bs generalizing v with
  | nil => simp
  | cons b bs ih =>
    have h := ih (v.driven b)
    cases b <;> simp_all [Pin.driven]

theorem msbFirst_all (v : Byte) : (msbFirst v).all id = decide (v = 0xFF#8) := by
  have h : ∀ w : BitVec 8, (msbFirst w).all id = decide (w = 0xFF#8) := by decide +kernel
  exact h v

/-- The SDA pin after a byte shift: released, its latch 0 unless every bit was 1
(40_bit_driver.md R106, R109). -/
def Pin.afterByte (v : Pin) (value : Byte) : Pin :=
  { v with dir := .dir .input, latch := if value = 0xFF#8 then v.latch else .level false }

@[simp] theorem afterByte_func (v : Pin) (value : Byte) : (v.afterByte value).func = v.func := rfl

/-- A byte shift ends in the byte-boundary state with LAST_ACK the acknowledgment of the one draw
(40_bit_driver.md R106 to R110). -/
theorem shiftByte_eq (v : Byte) (s : State) : shiftByte v s =
    (ackOf (s.answerAt 0), { s with
      scl := { s.scl with dir := .dir .output, latch := .level false }
      sda := s.sda.afterByte v
      lastAck := ackOf (s.answerAt 0)
      trace := s.trace ++ shiftEvents (halfUs s.cfg) v (s.answerAt 0)
      answers := s.answers.drop 1
      reads := s.reads + 1 }) := by
  have hf := foldl_driven (msbFirst v) s.sda
  rw [msbFirst_all] at hf
  have hne : msbFirst v ≠ [] := by simp [msbFirst]
  simp only [shiftByte, shiftBits_eq_sendBits]
  rw [sendBits_eq _ _ hne, ackPhase_eq]
  have ha : ∀ t : State, t.answers = s.answers → t.reads = s.reads → t.answerAt 0 = s.answerAt 0 := by
    intro t h1 h2
    simp [State.answerAt, h1, h2]
  rw [ha { s with
    scl := { s.scl with dir := .dir .output, latch := .level false }
    sda := (msbFirst v).foldl Pin.driven s.sda
    trace := s.trace ++ (msbFirst v).flatMap (bitEvents (halfUs s.cfg)) } rfl rfl]
  simp [setLastAck, Pin.afterByte, shiftEvents, hf.1, hf.2]

/-! ### The register transaction -/

/-- Where an attempt that draws the answers `f 0`, `f 1`, `f 2` ends: failed at a byte, or acknowledged. -/
def attemptEnd (f : Nat → Level) : Option NackPoint :=
  if f 0 then some .address else if f 1 then some .register else if f 2 then some .value else none

/-- The samples of an attempt by its end. -/
def endSamples : Option NackPoint → List Level
  | some f => f.samples
  | none => ackedSamples

/-- The events of an attempt by its end. -/
def endEvents (h : Micros) (w : RegWrite) : Option NackPoint → List Event
  | some f => failedEvents h w f
  | none => ackedEvents h w

/-- The register write a transaction performs. -/
def Transaction.write (t : Transaction) : RegWrite := ⟨t.taddr7, t.treg, t.tval⟩

/-- An attempt leaves the bus idle with both latches 0 and draws as many answers as bytes it shifted
(41_transaction.md R132). -/
theorem attempt_eq (t : Transaction) (s : State) : attempt t s =
    ((attemptEnd s.answerAt).isNone, { s with
      scl := { s.scl with dir := .dir .input, latch := .level false }
      sda := { s.sda with dir := .dir .input, latch := .level false }
      lastAck := (attemptEnd s.answerAt).isNone
      trace := s.trace ++ endEvents (halfUs s.cfg) t.write (attemptEnd s.answerAt)
      answers := s.answers.drop (endSamples (attemptEnd s.answerAt)).length
      reads := s.reads + (endSamples (attemptEnd s.answerAt)).length }) := by
  have hr : ∀ (u : State) (n i : Nat), u.answers = s.answers.drop n → u.reads = s.reads + n →
      u.answerAt i = s.answerAt (n + i) := fun u n i h1 h2 => answerAt_after s u n i h1 h2
  simp only [attempt, startCondition_eq, shiftByte_eq, stopCondition_eq]
  rw [hr _ 0 0 (by simp) (by simp)]
  rcases h0 : s.answerAt 0 with _ | _
  · simp only [ackOf, Bool.not_false, if_true]
    rw [hr _ 1 0 rfl rfl]
    rcases h1 : s.answerAt 1 with _ | _
    · simp only [Bool.not_false, if_true]
      rw [hr _ 2 0 (by simp) rfl]
      rcases h2 : s.answerAt 2 with _ | _ <;>
        simp [attemptEnd, h0, h1, h2, endSamples, endEvents, ackedSamples, ackedEvents, failedEvents,
          NackPoint.samples, Transaction.write, Nat.add_assoc]
    · simp [attemptEnd, h0, h1, endSamples, endEvents, failedEvents, NackPoint.samples,
        Transaction.write, Nat.add_assoc]
  · simp [attemptEnd, h0, ackOf, endSamples, endEvents, failedEvents, NackPoint.samples,
      Transaction.write]

/-- The state after one or more attempts with the last acknowledgment `ack`, the events `es` and `n` draws:
the bus idle, both latches 0. -/
def State.afterAttempts (s : State) (ack : Bool) (es : List Event) (n : Nat) : State :=
  { s with
    scl := { s.scl with dir := .dir .input, latch := .level false }
    sda := { s.sda with dir := .dir .input, latch := .level false }
    lastAck := ack
    trace := s.trace ++ es
    answers := s.answers.drop n
    reads := s.reads + n }

theorem afterAttempts_twice (s : State) (a b : Bool) (es fs : List Event) (m n : Nat) :
    (s.afterAttempts a es m).afterAttempts b fs n = s.afterAttempts b (es ++ fs) (m + n) := by
  simp [State.afterAttempts, Nat.add_assoc]

theorem delay_afterAttempts (d : Micros) (s : State) (a : Bool) (es : List Event) (n : Nat) :
    delay d (s.afterAttempts a es n) = s.afterAttempts a (es ++ [.delay d]) n := by
  simp [State.afterAttempts, delay_eq]

theorem attempt_afterAttempts (t : Transaction) (s : State) : attempt t s =
    ((attemptEnd s.answerAt).isNone, s.afterAttempts (attemptEnd s.answerAt).isNone
      (endEvents (halfUs s.cfg) t.write (attemptEnd s.answerAt))
      (endSamples (attemptEnd s.answerAt)).length) := attempt_eq t s

/-- The coming answers decide where an attempt ends. -/
theorem attemptEnd_of_upcoming (s : State) (e : Option NackPoint)
    (h : s.upcoming (endSamples e).length = endSamples e) : attemptEnd s.answerAt = e := by
  rcases e with _ | f
  · simp_all [endSamples, ackedSamples, State.upcoming, List.range_succ, attemptEnd]
  · cases f <;>
      simp_all [endSamples, NackPoint.samples, State.upcoming, List.range_succ, attemptEnd]

/-- Every attempt draws the samples of its end. -/
theorem upcoming_attemptEnd (s : State) :
    s.upcoming (endSamples (attemptEnd s.answerAt)).length = endSamples (attemptEnd s.answerAt) := by
  rcases h0 : s.answerAt 0 with _ | _ <;> rcases h1 : s.answerAt 1 with _ | _ <;>
    rcases h2 : s.answerAt 2 with _ | _ <;>
    simp [attemptEnd, endSamples, ackedSamples, NackPoint.samples, State.upcoming, List.range_succ,
      h0, h1, h2]

/-- A list of coming answers that begins with `xs` splits after them. -/
theorem upcoming_append {s : State} {xs ys : List Level}
    (h : s.upcoming (xs ++ ys).length = xs ++ ys) :
    s.upcoming xs.length = xs ∧ (s.dropAnswers xs.length).upcoming ys.length = ys := by
  rw [List.length_append, upcoming_add] at h
  exact List.append_inj h (upcoming_length s xs.length)

theorem upcoming_append_of {s : State} {xs ys : List Level} (hx : s.upcoming xs.length = xs)
    (hy : (s.dropAnswers xs.length).upcoming ys.length = ys) :
    s.upcoming (xs ++ ys).length = xs ++ ys := by
  rw [List.length_append, upcoming_add, hx, hy]

theorem upcoming_afterAttempts (s : State) (a : Bool) (es : List Event) (m n : Nat) :
    (s.afterAttempts a es m).upcoming n = (s.dropAnswers m).upcoming n :=
  upcoming_congr _ _ n rfl rfl

theorem nackSamples_cons (f : NackPoint) (fs : List NackPoint) :
    nackSamples (f :: fs) = f.samples ++ nackSamples fs := by
  simp [nackSamples]

/-- Separating a list of event lists by the backoff, one step. -/
theorem intercalate_cons_ne {α : Type} (d : List α) (x : List α) (xs : List (List α)) (h : xs ≠ []) :
    d.intercalate (x :: xs) = x ++ d ++ d.intercalate xs := by
  cases xs with
  | nil => exact absurd rfl h
  | cons y ys => simp [List.intercalate, List.intersperse]

/-- The counter of the retry loop, one round on. -/
theorem count_succ (k tmax : Count) (n : Nat) (h : n + 1 = tmax.toNat - k.toNat) :
    k < tmax ∧ (k + 1#32).toNat = k.toNat + 1 ∧ n = tmax.toNat - (k + 1#32).toNat
      ∧ ((k + 1#32 < tmax) ↔ n ≠ 0) := by
  have hk := k.isLt
  have ht := tmax.isLt
  have hs : (k + 1#32).toNat = k.toNat + 1 := by
    rw [BitVec.toNat_add]
    simp
    omega
  refine ⟨?_, hs, ?_, ?_⟩
  · rw [BitVec.lt_def]
    omega
  · omega
  · rw [BitVec.lt_def, hs]
    omega

/-- All remaining attempts fail: K reaches TMAX, OUTCOME will be FAILURE, a backoff stands between the attempts
only (41_transaction.md R134, R135). -/
theorem retryLoop_exhausted (fs : List NackPoint) (t : Transaction) (s : State)
    (hn : fs.length = t.tmax.toNat - t.k.toNat) (hk : t.k.toNat ≤ t.tmax.toNat)
    (hu : s.upcoming (nackSamples fs).length = nackSamples fs) :
    retryLoop fs.length t s = ⟨.failure, t.tmax,
      if fs = [] then s
      else s.afterAttempts false (exhaustedEvents s.cfg t.write fs) (nackSamples fs).length⟩ := by
  induction fs generalizing t s with
  | nil =>
    have : t.k = t.tmax := BitVec.eq_of_toNat_eq (by simp at hn; omega)
    simp [retryLoop, this]
  | cons f fs ih =>
    obtain ⟨hlt, hs, hn', hmore⟩ := count_succ t.k t.tmax fs.length (by simpa using hn)
    rw [nackSamples_cons] at hu
    obtain ⟨hu1, hu2⟩ := upcoming_append hu
    have he : attemptEnd s.answerAt = some f := attemptEnd_of_upcoming s (some f) hu1
    have ha : attempt { t with k := t.k + 1#32 } s
        = (false, s.afterAttempts false (failedEvents (halfUs s.cfg) t.write f) f.samples.length) := by
      rw [attempt_afterAttempts, he]
      rfl
    simp only [List.length_cons, retryLoop, hlt, if_true, ha]
    by_cases hz : fs = []
    · subst hz
      have hne : ¬ (t.k + 1#32 < t.tmax) := by simpa using hmore
      have : t.k + 1#32 = t.tmax := by
        apply BitVec.eq_of_toNat_eq
        simp at hn'
        rw [BitVec.lt_def] at hlt
        omega
      simp [retryLoop, this, exhaustedEvents, nackSamples]
    · have hlt' : t.k + 1#32 < t.tmax := by
        rw [hmore]
        simpa using hz
      simp only [hlt', if_true]
      rw [delay_afterAttempts]
      rw [ih { t with k := t.k + 1#32 } _ hn'
        (by rw [BitVec.lt_def] at hlt; simp only [hs]; omega)
        (by rw [upcoming_afterAttempts]; exact hu2)]
      have hm : fs.map (failedEvents (halfUs s.cfg) t.write) ≠ [] := by simpa using hz
      simp [hz, afterAttempts_twice, nackSamples_cons, exhaustedEvents, intercalate_cons_ne _ _ _ hm]
      simp [State.afterAttempts, Transaction.write]

/-- The remaining attempts fail at the bytes `fs` and then one is acknowledged: the loop ends there
(41_transaction.md R133, R135). -/
theorem retryLoop_succeeded (fs : List NackPoint) (n : Nat) (t : Transaction) (s : State)
    (hn : n = t.tmax.toNat - t.k.toNat) (hl : fs.length < n)
    (hu : s.upcoming (nackSamples fs ++ ackedSamples).length = nackSamples fs ++ ackedSamples) :
    retryLoop n t s = ⟨.success, t.k + BitVec.ofNat 32 (fs.length + 1),
      s.afterAttempts true (succeededEvents s.cfg t.write fs)
        (nackSamples fs ++ ackedSamples).length⟩ := by
  induction fs generalizing n t s with
  | nil =>
    obtain ⟨m, rfl⟩ : ∃ m, n = m + 1 := ⟨n - 1, by simp at hl; omega⟩
    obtain ⟨hlt, hs, hn', hmore⟩ := count_succ t.k t.tmax m hn
    have he : attemptEnd s.answerAt = none := attemptEnd_of_upcoming s none (by simpa [nackSamples, endSamples] using hu)
    have ha : attempt { t with k := t.k + 1#32 } s
        = (true, s.afterAttempts true (ackedEvents (halfUs s.cfg) t.write) ackedSamples.length) := by
      rw [attempt_afterAttempts, he]
      rfl
    simp [retryLoop, hlt, ha, succeededEvents, nackSamples]
  | cons f fs ih =>
    obtain ⟨m, rfl⟩ : ∃ m, n = m + 1 := ⟨n - 1, by simp at hl; omega⟩
    obtain ⟨hlt, hs, hn', hmore⟩ := count_succ t.k t.tmax m hn
    rw [nackSamples_cons, List.append_assoc] at hu
    obtain ⟨hu1, hu2⟩ := upcoming_append hu
    have he : attemptEnd s.answerAt = some f := attemptEnd_of_upcoming s (some f) hu1
    have ha : attempt { t with k := t.k + 1#32 } s
        = (false, s.afterAttempts false (failedEvents (halfUs s.cfg) t.write f) f.samples.length) := by
      rw [attempt_afterAttempts, he]
      rfl
    have hm0 : m ≠ 0 := by simp at hl; omega
    have hlt' : t.k + 1#32 < t.tmax := hmore.mpr hm0
    simp only [retryLoop, hlt, if_true, ha, hlt']
    simp only [Bool.false_eq_true, if_false]
    rw [delay_afterAttempts]
    rw [ih m { t with k := t.k + 1#32 } _ hn' (by simpa using hl)
      (by rw [upcoming_afterAttempts]; exact hu2)]
    have hm : fs.map (failedEvents (halfUs s.cfg) t.write) ++ [ackedEvents (halfUs s.cfg) t.write] ≠ [] := by
      simp
    have hcount : t.k + 1#32 + BitVec.ofNat 32 (fs.length + 1) = t.k + BitVec.ofNat 32 (fs.length + 1 + 1) := by
      rw [BitVec.add_assoc]
      congr 1
      apply BitVec.eq_of_toNat_eq
      simp
      omega
    simp [hcount, afterAttempts_twice, nackSamples_cons, succeededEvents, intercalate_cons_ne _ _ _ hm]
    simp [State.afterAttempts, Transaction.write]

/-- The coming answers of every state fit exactly one of the two ways a budget `n` can be spent. -/
theorem spend_budget (n : Nat) (s : State) :
    (∃ fs : List NackPoint, fs.length = n ∧ s.upcoming (nackSamples fs).length = nackSamples fs)
      ∨ ∃ fs : List NackPoint, fs.length < n
          ∧ s.upcoming (nackSamples fs ++ ackedSamples).length = nackSamples fs ++ ackedSamples := by
  induction n generalizing s with
  | zero => exact .inl ⟨[], rfl, rfl⟩
  | succ n ih =>
    have hu := upcoming_attemptEnd s
    rcases he : attemptEnd s.answerAt with _ | f
    · rw [he] at hu
      exact .inr ⟨[], by simp, by simpa [nackSamples, endSamples] using hu⟩
    · rw [he] at hu
      rcases ih (s.dropAnswers f.samples.length) with ⟨fs, hl, h⟩ | ⟨fs, hl, h⟩
      · refine .inl ⟨f :: fs, by simp [hl], ?_⟩
        rw [nackSamples_cons]
        exact upcoming_append_of hu h
      · refine .inr ⟨f :: fs, by simp [hl], ?_⟩
        rw [nackSamples_cons, List.append_assoc]
        exact upcoming_append_of hu h

/-- A register write that exhausts its budget (41_transaction.md R134, R136). -/
theorem writeRegBody_exhausted (w : RegWrite) (n : Count) (fs : List NackPoint) (s : State)
    (hn : fs.length = n.toNat) (hu : s.upcoming (nackSamples fs).length = nackSamples fs) :
    writeRegBody w.addr7 w.reg w.value n s = setTxResult .failure n
      (if fs = [] then s
       else s.afterAttempts false (exhaustedEvents s.cfg w fs) (nackSamples fs).length) := by
  have h := retryLoop_exhausted fs ⟨w.addr7, w.reg, w.value, n, 0#32⟩ s (by simpa using hn) (by simp) hu
  simp only [writeRegBody, ← hn, h]
  rfl

/-- A register write that succeeds after the failed attempts `fs` (41_transaction.md R133). -/
theorem writeRegBody_succeeded (w : RegWrite) (n : Count) (fs : List NackPoint) (s : State)
    (hn : fs.length < n.toNat)
    (hu : s.upcoming (nackSamples fs ++ ackedSamples).length = nackSamples fs ++ ackedSamples) :
    writeRegBody w.addr7 w.reg w.value n s = setTxResult .success (BitVec.ofNat 32 (fs.length + 1))
      (s.afterAttempts true (succeededEvents s.cfg w fs)
        (nackSamples fs ++ ackedSamples).length) := by
  have h := retryLoop_succeeded fs n.toNat ⟨w.addr7, w.reg, w.value, n, 0#32⟩ s (by simp) hn hu
  simp only [writeRegBody, h, BitVec.zero_add]
  rfl

/-- Everything a register write can do. -/
theorem writeRegBody_cases (w : RegWrite) (n : Count) (s : State) :
    (∃ fs : List NackPoint, fs.length = n.toNat
        ∧ s.upcoming (nackSamples fs).length = nackSamples fs
        ∧ writeRegBody w.addr7 w.reg w.value n s = setTxResult .failure n
            (if fs = [] then s
             else s.afterAttempts false (exhaustedEvents s.cfg w fs) (nackSamples fs).length))
      ∨ ∃ fs : List NackPoint, fs.length < n.toNat
        ∧ s.upcoming (nackSamples fs ++ ackedSamples).length = nackSamples fs ++ ackedSamples
        ∧ writeRegBody w.addr7 w.reg w.value n s = setTxResult .success (BitVec.ofNat 32 (fs.length + 1))
            (s.afterAttempts true (succeededEvents s.cfg w fs)
              (nackSamples fs ++ ackedSamples).length) := by
  rcases spend_budget n.toNat s with ⟨fs, hn, hu⟩ | ⟨fs, hn, hu⟩
  · exact .inl ⟨fs, hn, hu, writeRegBody_exhausted w n fs s hn hu⟩
  · exact .inr ⟨fs, hn, hu, writeRegBody_succeeded w n fs s hn hu⟩

/-! ### The orchestrator's steps -/

theorem claimBusBody_eq (s : State) : claimBusBody s =
    { s with
      scl := { s.scl with func := .gpio, dir := .dir .input }
      sda := { s.sda with func := .gpio, dir := .dir .input }
      trace := s.trace ++ claimEvents s.cfg.claimSettleUs } := by
  simp [claimBusBody, delay_eq, gpioSetDir_scl, gpioSetDir_sda, gpioSetFunc_scl, gpioSetFunc_sda,
    claimEvents]

theorem releaseBusBody_eq (s : State) : releaseBusBody s =
    { s with
      scl := ⟨.alt, .dir .output, .level true⟩
      sda := ⟨.alt, .dir .output, .level true⟩
      trace := s.trace ++ releaseEvents } := by
  simp [releaseBusBody, gpioSetDir_scl, gpioSetDir_sda, gpioSetFunc_scl, gpioSetFunc_sda,
    gpioWrite_scl, gpioWrite_sda, releaseEvents]

theorem enter_eq (st : OrchState) (s : State) :
    enter st s = { s with orch := st, trace := s.trace ++ [.step st] } := rfl

theorem enableClocks_eq (s : State) : enableClocks s =
    { s with
      orch := .enableClocks
      trace := s.trace ++ ([.step .enableClocks] ++ mmioEvents s.cfg.clkWrites ++ [.delay s.cfg.clkSettleUs]) } := by
  simp [enableClocks, delay_eq, memWrites_eq, enter_eq]

theorem deassertResets_eq (s : State) : deassertResets s =
    { s with
      orch := .deassertResets
      trace := s.trace
        ++ ([.step .deassertResets] ++ mmioEvents s.cfg.rstWrites ++ [.delay s.cfg.rstSettleUs]) } := by
  simp [deassertResets, delay_eq, memWrites_eq, enter_eq]

theorem finishBringup_eq (s : State) : finishBringup s =
    { s with
      scl := ⟨.alt, .dir .output, .level true⟩
      sda := ⟨.alt, .dir .output, .level true⟩
      orch := .done
      trace := s.trace ++ finishEvents s.cfg } := by
  simp [finishBringup, enableClocks_eq, deassertResets_eq, releaseBusBody_eq, enter_eq, finishEvents]

theorem fatalPath_eq (s : State) : fatalPath s =
    { s with
      scl := ⟨.alt, .dir .output, .level true⟩
      sda := ⟨.alt, .dir .output, .level true⟩
      orch := .fatal
      halted := true
      trace := s.trace ++ fatalEvents } := by
  simp [fatalPath, fatalHalt, emit, releaseBusBody_eq, enter_eq, fatalEvents]

end Sys2Proof.Machine
end

