-- ==== Sys2Proof/Laws/Bringup.lean ====
section
/-! SUPPORT. Everything a bring-up can do: its three ends, by where its two transactions end
(42_orchestrator.md R150, R173). -/

namespace Sys2Proof.Machine

/-- The state a bring-up ends in: both pins handed back, the registers as given, the events appended, `n` answers
drawn. -/
def State.bringupEnd (s : State) (ack : Bool) (out : TxOutcome) (used : Count) (orch : OrchState) (halt : Bool)
    (es : List Event) (n : Nat) : State :=
  { s with
    scl := ⟨.alt, .dir .output, .level true⟩
    sda := ⟨.alt, .dir .output, .level true⟩
    lastAck := ack
    outcome := out
    attemptsUsed := used
    orch := orch
    halted := halt
    trace := s.trace ++ es
    answers := s.answers.drop n
    reads := s.reads + n }

/-- The events of a bring-up up to the end of a ProgramVoltage whose transaction emits `tx`. -/
def voltagePart (p : Params) (tx : List Event) : List Event :=
  [.step .claimBus] ++ claimEvents p.claimSettleUs ++ [.step .programVoltage] ++ tx

/-- The events from a successful ProgramVoltage to the end of a ProgramEnable whose transaction emits `tx`. -/
def enablePart (p : Params) (tx : List Event) : List Event :=
  [.delay p.vselSettleUs] ++ [.step .programEnable] ++ tx

theorem exhaustedEvents_nil (p : Params) (w : RegWrite) : exhaustedEvents p w [] = [] := by
  simp [exhaustedEvents, List.intercalate]

/-- A state in which the bus has been claimed and ProgramVoltage entered. -/
def State.atVoltage (s : State) : State := enter .programVoltage (claimBusBody (enter .claimBus s))

theorem atVoltage_eq (s : State) : s.atVoltage =
    { s with
      scl := ⟨.gpio, .dir .input, s.scl.latch⟩
      sda := ⟨.gpio, .dir .input, s.sda.latch⟩
      orch := .programVoltage
      trace := s.trace ++ voltagePart s.cfg [] } := by
  simp [State.atVoltage, enter_eq, claimBusBody_eq, voltagePart]

theorem programVoltage_start (s : State) : programVoltage (claimBusBody (enter .claimBus s)) =
    writeRegBody (vselWrite s.cfg).addr7 (vselWrite s.cfg).reg (vselWrite s.cfg).value s.cfg.vselAttempts
      s.atVoltage := by
  simp only [programVoltage, State.atVoltage, claimBusBody_eq, enter_eq, vselWrite]

theorem upcoming_atVoltage (s : State) (n : Nat) : s.atVoltage.upcoming n = s.upcoming n := by
  rw [atVoltage_eq]
  exact upcoming_congr _ _ n rfl rfl

/-- ProgramVoltage exhausts its budget: the fatal path (42_orchestrator.md R166). -/
theorem bringupBody_voltageFails (s : State) (vs : List NackPoint)
    (hn : vs.length = s.cfg.vselAttempts.toNat) (hu : s.upcoming (nackSamples vs).length = nackSamples vs) :
    bringupBody s = s.bringupEnd (if vs = [] then s.lastAck else false) .failure s.cfg.vselAttempts .fatal true
      (voltagePart s.cfg (exhaustedEvents s.cfg (vselWrite s.cfg) vs) ++ fatalEvents)
      (nackSamples vs).length := by
  have hw := writeRegBody_exhausted (vselWrite s.cfg) s.cfg.vselAttempts vs s.atVoltage hn
    (by rw [upcoming_atVoltage]; exact hu)
  simp only [bringupBody]
  rw [programVoltage_start, hw]
  simp only [setTxResult_outcome, if_true]
  rw [fatalPath_eq]
  by_cases hv : vs = []
  · subst hv
    simp [State.bringupEnd, atVoltage_eq, exhaustedEvents_nil, setTxResult, nackSamples]
  · simp [hv, State.bringupEnd, atVoltage_eq, setTxResult, State.afterAttempts, voltagePart]

/-- A state in which ProgramVoltage has succeeded and ProgramEnable is entered. -/
def State.atEnable (s : State) (vs : List NackPoint) : State :=
  { s with
    scl := ⟨.gpio, .dir .input, .level false⟩
    sda := ⟨.gpio, .dir .input, .level false⟩
    lastAck := true
    outcome := .success
    attemptsUsed := BitVec.ofNat 32 (vs.length + 1)
    orch := .programEnable
    trace := s.trace ++ voltagePart s.cfg (succeededEvents s.cfg (vselWrite s.cfg) vs) ++ enablePart s.cfg []
    answers := s.answers.drop (nackSamples vs ++ ackedSamples).length
    reads := s.reads + (nackSamples vs ++ ackedSamples).length }

/-- The second half of a bring-up, once ProgramEnable's transaction has ended in `e`. -/
def afterEnable (e : State) : State :=
  if e.outcome = .failure then fatalPath e else finishBringup (delay e.cfg.enSettleUs e)

/-- ProgramVoltage succeeds: the bring-up goes on with ProgramEnable (42_orchestrator.md R165, R167). -/
theorem bringupBody_voltageSucceeds (s : State) (vs : List NackPoint)
    (hn : vs.length < s.cfg.vselAttempts.toNat)
    (hu : s.upcoming (nackSamples vs ++ ackedSamples).length = nackSamples vs ++ ackedSamples) :
    bringupBody s = afterEnable (writeRegBody (enWrite s.cfg).addr7 (enWrite s.cfg).reg (enWrite s.cfg).value
      s.cfg.enAttempts (s.atEnable vs)) := by
  have hw := writeRegBody_succeeded (vselWrite s.cfg) s.cfg.vselAttempts vs s.atVoltage hn
    (by rw [upcoming_atVoltage]; exact hu)
  simp only [bringupBody]
  rw [programVoltage_start, hw]
  simp only [setTxResult_outcome, reduceCtorEq, if_false]
  simp [bringupFromEnable, programEnable, afterEnable, State.atEnable, atVoltage_eq, setTxResult,
    State.afterAttempts, delay_eq, enter_eq, voltagePart, enablePart, enWrite]

theorem upcoming_atEnable (s : State) (vs : List NackPoint) (n : Nat) :
    (s.atEnable vs).upcoming n = (s.dropAnswers (nackSamples vs ++ ackedSamples).length).upcoming n :=
  upcoming_congr _ _ n rfl rfl

/-- ProgramVoltage succeeds and ProgramEnable exhausts its budget: the fatal path (42_orchestrator.md R168). -/
theorem bringupBody_enableFails (s : State) (vs es : List NackPoint)
    (hn : vs.length < s.cfg.vselAttempts.toNat) (he : es.length = s.cfg.enAttempts.toNat)
    (hu : s.upcoming (nackSamples vs ++ ackedSamples ++ nackSamples es).length
      = nackSamples vs ++ ackedSamples ++ nackSamples es) :
    bringupBody s = s.bringupEnd (if es = [] then true else false) .failure s.cfg.enAttempts .fatal true
      (voltagePart s.cfg (succeededEvents s.cfg (vselWrite s.cfg) vs)
        ++ enablePart s.cfg (exhaustedEvents s.cfg (enWrite s.cfg) es) ++ fatalEvents)
      (nackSamples vs ++ ackedSamples ++ nackSamples es).length := by
  obtain ⟨hu1, hu2⟩ := upcoming_append hu
  rw [bringupBody_voltageSucceeds s vs hn hu1]
  have hw := writeRegBody_exhausted (enWrite s.cfg) s.cfg.enAttempts es (s.atEnable vs) he
    (by rw [upcoming_atEnable]; exact hu2)
  rw [hw]
  simp only [afterEnable, setTxResult_outcome, if_true]
  rw [fatalPath_eq]
  by_cases hv : es = []
  · subst hv
    simp [State.bringupEnd, State.atEnable, exhaustedEvents_nil, setTxResult, nackSamples]
  · simp [hv, State.bringupEnd, State.atEnable, setTxResult, State.afterAttempts, voltagePart, enablePart,
      Nat.add_assoc]

/-- Both transactions succeed: Done (42_orchestrator.md R172, R173). -/
theorem bringupBody_succeeds (s : State) (vs es : List NackPoint)
    (hn : vs.length < s.cfg.vselAttempts.toNat) (he : es.length < s.cfg.enAttempts.toNat)
    (hu : s.upcoming (nackSamples vs ++ ackedSamples ++ (nackSamples es ++ ackedSamples)).length
      = nackSamples vs ++ ackedSamples ++ (nackSamples es ++ ackedSamples)) :
    bringupBody s = s.bringupEnd true .success (BitVec.ofNat 32 (es.length + 1)) .done s.halted
      (voltagePart s.cfg (succeededEvents s.cfg (vselWrite s.cfg) vs)
        ++ enablePart s.cfg (succeededEvents s.cfg (enWrite s.cfg) es)
        ++ [.delay s.cfg.enSettleUs] ++ finishEvents s.cfg)
      (nackSamples vs ++ ackedSamples ++ (nackSamples es ++ ackedSamples)).length := by
  obtain ⟨hu1, hu2⟩ := upcoming_append hu
  rw [bringupBody_voltageSucceeds s vs hn hu1]
  have hw := writeRegBody_succeeded (enWrite s.cfg) s.cfg.enAttempts es (s.atEnable vs) he
    (by rw [upcoming_atEnable]; exact hu2)
  rw [hw]
  simp only [afterEnable, setTxResult_outcome, reduceCtorEq, if_false]
  rw [finishBringup_eq]
  simp [State.bringupEnd, State.atEnable, setTxResult, State.afterAttempts, voltagePart, enablePart, delay_eq,
    Nat.add_assoc]

/-- Every bring-up ends in one of the three ways. -/
theorem bringupBody_cases (s : State) :
    (∃ vs : List NackPoint, vs.length = s.cfg.vselAttempts.toNat
        ∧ s.upcoming (nackSamples vs).length = nackSamples vs)
      ∨ (∃ vs es : List NackPoint, vs.length < s.cfg.vselAttempts.toNat ∧ es.length = s.cfg.enAttempts.toNat
        ∧ s.upcoming (nackSamples vs ++ ackedSamples ++ nackSamples es).length
          = nackSamples vs ++ ackedSamples ++ nackSamples es)
      ∨ ∃ vs es : List NackPoint, vs.length < s.cfg.vselAttempts.toNat ∧ es.length < s.cfg.enAttempts.toNat
        ∧ s.upcoming (nackSamples vs ++ ackedSamples ++ (nackSamples es ++ ackedSamples)).length
          = nackSamples vs ++ ackedSamples ++ (nackSamples es ++ ackedSamples) := by
  rcases spend_budget s.cfg.vselAttempts.toNat s with ⟨vs, hn, hu⟩ | ⟨vs, hn, hu⟩
  · exact .inl ⟨vs, hn, hu⟩
  · rcases spend_budget s.cfg.enAttempts.toNat (s.dropAnswers (nackSamples vs ++ ackedSamples).length) with
      ⟨es, he, h2⟩ | ⟨es, he, h2⟩
    · exact .inr (.inl ⟨vs, es, hn, he, upcoming_append_of hu h2⟩)
    · exact .inr (.inr ⟨vs, es, hn, he, upcoming_append_of hu h2⟩)

end Sys2Proof.Machine
end

