-- ==== Sys2Proof/Laws/Counts.lean ====
section
/-! SUPPORT. Counting and replaying along event lists: append lemmas for each observer of Safety.lean, and
its value on each fragment of a command (40_bit_driver.md R113; 41_transaction.md R139). -/

namespace Sys2Proof.Machine

/-! ### Append lemmas -/

@[simp] theorem totalWait_nil : totalWait [] = 0 := rfl

@[simp] theorem totalWait_append (es fs : List Event) :
    totalWait (es ++ fs) = totalWait es + totalWait fs := by simp [totalWait]

@[simp] theorem markers_append (es fs : List Event) : markers (es ++ fs) = markers es ++ markers fs := by
  simp [markers]

@[simp] theorem mmioWrites_append (es fs : List Event) :
    mmioWrites (es ++ fs) = mmioWrites es ++ mmioWrites fs := by simp [mmioWrites]

@[simp] theorem samples_append (es fs : List Event) : samples (es ++ fs) = samples es ++ samples fs := by
  simp [samples]

@[simp] theorem replayPins_nil (v : Pin × Pin) : replayPins v [] = v := rfl

@[simp] theorem replayPins_append (v : Pin × Pin) (es fs : List Event) :
    replayPins v (es ++ fs) = replayPins (replayPins v es) fs := by simp [replayPins]

theorem clockPulses_append (v : Pin × Pin) (es fs : List Event) :
    clockPulses v (es ++ fs) = clockPulses v es ++ clockPulses (replayPins v es) fs := by
  induction es generalizing v with
  | nil => rfl
  | cons e es ih =>
    simp only [List.cons_append, clockPulses, ih, replayPins, List.foldl_cons]
    split <;> simp

theorem countAlong_append (cond : Option Level → Option Level → Bool) (v : Pin × Pin) (last : Option Level)
    (es fs : List Event) :
    countAlong cond v last (es ++ fs)
      = countAlong cond v last es + countAlong cond (replayPins v es) (levelAlong v last es) fs := by
  induction es generalizing v last with
  | nil => simp [countAlong, levelAlong]
  | cons e es ih =>
    simp only [List.cons_append, countAlong, levelAlong, ih, replayPins, List.foldl_cons]
    omega

theorem levelAlong_append (v : Pin × Pin) (last : Option Level) (es fs : List Event) :
    levelAlong v last (es ++ fs) = levelAlong (replayPins v es) (levelAlong v last es) fs := by
  induction es generalizing v last with
  | nil => rfl
  | cons e es ih => simp only [List.cons_append, levelAlong, ih, replayPins, List.foldl_cons]

/-! ### Waits of the fragments, with half period `h` (40_bit_driver.md R113; 41_transaction.md R139) -/

theorem totalWait_delay (d : Micros) : totalWait [.delay d] = d.toNat := by simp [totalWait, Event.wait]

theorem totalWait_bit (h : Micros) (b : Level) : totalWait (bitEvents h b) = 3 * h.toNat := by
  cases b <;> simp [bitEvents, driveEvents, totalWait, Event.wait] <;> omega

theorem totalWait_bits (h : Micros) (bs : List Level) :
    totalWait (bs.flatMap (bitEvents h)) = bs.length * (3 * h.toNat) := by
  induction bs with
  | nil => simp
  | cons b bs ih =>
    rw [List.flatMap_cons, totalWait_append, totalWait_bit, ih, List.length_cons, Nat.add_mul, Nat.one_mul,
      Nat.add_comm]

theorem msbFirst_length (v : Byte) : (msbFirst v).length = 8 := by simp [msbFirst]

theorem totalWait_ack (h : Micros) (r : Level) : totalWait (ackEvents h r) = 4 * h.toNat := by
  simp [ackEvents, driveEvents, totalWait, Event.wait]
  omega

theorem totalWait_shift (h : Micros) (v : Byte) (r : Level) :
    totalWait (shiftEvents h v r) = 28 * h.toNat := by
  rw [shiftEvents, totalWait_append, totalWait_bits, totalWait_ack, msbFirst_length]
  omega

theorem totalWait_start (h : Micros) : totalWait (startEvents h) = 4 * h.toNat := by
  simp [startEvents, totalWait, Event.wait]
  omega

theorem totalWait_stop (h : Micros) : totalWait (stopEvents h) = 3 * h.toNat := by
  simp [stopEvents, totalWait, Event.wait]
  omega

theorem totalWait_failed (h : Micros) (w : RegWrite) (f : NackPoint) :
    totalWait (failedEvents h w f) = f.halfPeriods * h.toNat := by
  cases f <;>
    simp only [failedEvents, totalWait_append, totalWait_start, totalWait_stop, totalWait_shift,
      NackPoint.halfPeriods] <;> omega

theorem totalWait_acked (h : Micros) (w : RegWrite) : totalWait (ackedEvents h w) = 91 * h.toNat := by
  simp only [ackedEvents, totalWait_append, totalWait_start, totalWait_stop, totalWait_shift]
  omega

theorem totalWait_claim (d : Micros) : totalWait (claimEvents d) = d.toNat := by
  simp [claimEvents, totalWait, Event.wait]

theorem totalWait_release : totalWait releaseEvents = 0 := rfl

theorem totalWait_mmio (ws : List MmioPair) : totalWait (mmioEvents ws) = 0 := by
  induction ws with
  | nil => rfl
  | cons w ws ih =>
    simp only [totalWait, mmioEvents, List.map_cons, List.sum_cons, Event.wait, Nat.zero_add] at ih ⊢
    exact ih

theorem totalWait_intercalate (d : Micros) (xs : List (List Event)) :
    totalWait ([Event.delay d].intercalate xs) = (xs.map totalWait).sum + (xs.length - 1) * d.toNat := by
  induction xs with
  | nil => simp [List.intercalate]
  | cons x xs ih =>
    by_cases hx : xs = []
    · subst hx
      simp [List.intercalate]
    · rw [intercalate_cons_ne _ _ _ hx, totalWait_append, totalWait_append, totalWait_delay, ih]
      obtain ⟨n, hn⟩ : ∃ n, xs.length = n + 1 :=
        ⟨xs.length - 1, by have := List.length_pos_iff.mpr hx; omega⟩
      simp only [List.map_cons, List.sum_cons, List.length_cons, hn, Nat.add_sub_cancel, Nat.succ_mul]
      omega

theorem sum_failed (h : Micros) (w : RegWrite) (fs : List NackPoint) :
    ((fs.map (failedEvents h w)).map totalWait).sum = failedHalfPeriods fs * h.toNat := by
  induction fs with
  | nil => simp [failedHalfPeriods]
  | cons f fs ih =>
    simp only [List.map_cons, List.sum_cons, ih, totalWait_failed, failedHalfPeriods, Nat.add_mul]

theorem totalWait_exhausted (p : Params) (w : RegWrite) (fs : List NackPoint) :
    totalWait (exhaustedEvents p w fs)
      = failedHalfPeriods fs * (halfUs p).toNat + (fs.length - 1) * p.backoffUs.toNat := by
  rw [exhaustedEvents, totalWait_intercalate, sum_failed, List.length_map]

theorem totalWait_succeeded (p : Params) (w : RegWrite) (fs : List NackPoint) :
    totalWait (succeededEvents p w fs)
      = (failedHalfPeriods fs + 91) * (halfUs p).toNat + fs.length * p.backoffUs.toNat := by
  rw [succeededEvents, totalWait_intercalate, List.map_append, List.sum_append, sum_failed]
  simp [totalWait_acked, Nat.add_mul]

/-! ### Event counts of a byte shift (40_bit_driver.md R113) -/

theorem bits_counts (h : Micros) (bs : List Level) :
    (bs.flatMap (bitEvents h)).countP Event.isDelay = 3 * bs.length
      ∧ (bs.flatMap (bitEvents h)).countP Event.isRead = 0
      ∧ (bs.flatMap (bitEvents h)).countP Event.isGpioSet = 4 * bs.length + bs.countP (fun b => !b)
      ∧ (bs.flatMap (bitEvents h)).length = 7 * bs.length + bs.countP (fun b => !b) := by
  induction bs with
  | nil => simp
  | cons b bs ih =>
    obtain ⟨h1, h2, h3, h4⟩ := ih
    have hb : (bitEvents h b).countP Event.isDelay = 3 ∧ (bitEvents h b).countP Event.isRead = 0
        ∧ (bitEvents h b).countP Event.isGpioSet = 4 + [b].countP (fun b => !b)
        ∧ (bitEvents h b).length = 7 + [b].countP (fun b => !b) := by
      cases b <;> exact ⟨rfl, rfl, rfl, rfl⟩
    obtain ⟨b1, b2, b3, b4⟩ := hb
    rw [List.flatMap_cons, List.countP_append, List.countP_append, List.countP_append, List.length_append,
      h1, h2, h3, h4, b1, b2, b3, b4, ← List.singleton_append, List.countP_append, List.length_append,
      List.length_singleton]
    omega

theorem shift_counts (h : Micros) (v : Byte) (r : Level) :
    (shiftEvents h v r).countP Event.isDelay = 28 ∧ (shiftEvents h v r).countP Event.isRead = 1
      ∧ (shiftEvents h v r).countP Event.isGpioSet = 37 + zeroBits v
      ∧ (shiftEvents h v r).length = 66 + zeroBits v := by
  obtain ⟨h1, h2, h3, h4⟩ := bits_counts h (msbFirst v)
  have ha : (ackEvents h r).countP Event.isDelay = 4 ∧ (ackEvents h r).countP Event.isRead = 1
      ∧ (ackEvents h r).countP Event.isGpioSet = 5 ∧ (ackEvents h r).length = 10 := by
    refine ⟨rfl, rfl, rfl, rfl⟩
  obtain ⟨a1, a2, a3, a4⟩ := ha
  rw [msbFirst_length] at h1 h3 h4
  rw [shiftEvents, List.countP_append, List.countP_append, List.countP_append, List.length_append, h1, h2, h3, h4,
    a1, a2, a3, a4, zeroBits]
  omega

theorem zeroBits_le (v : Byte) : zeroBits v ≤ 8 := by
  have := List.countP_le_length (p := fun b : Level => !b) (l := msbFirst v)
  rw [msbFirst_length] at this
  exact this

end Sys2Proof.Machine
end

