-- ==== Sys2Proof/Laws/Encoding.lean ====
section
/-! SUPPORT. The bits and fields of a command word, and everything decoding can give: encoding proofs cite these
and unfold neither `packCmd` nor `decode` (30_encoding.md R71, R73, R74). -/

namespace Sys2Proof

/-! ### The word of a command, bit by bit (30_encoding.md R71) -/

theorem packCmd_getLsbD (att : Count) (addr7 : Addr7) (b1 b0 : Byte) (lvl : Level) (op : BitVec 4) (i : Nat) :
    (packCmd att addr7 b1 b0 lvl op).getLsbD i =
      if i < 4 then op.getLsbD i
      else if i = 4 then lvl
      else if i < 8 then false
      else if i < 16 then b0.getLsbD (i - 8)
      else if i < 24 then b1.getLsbD (i - 16)
      else if i < 31 then addr7.getLsbD (i - 24)
      else if i = 31 then false
      else att.getLsbD (i - 32) := by
  simp only [packCmd, BitVec.getLsbD_append, BitVec.getLsbD_ofBool, BitVec.getLsbD_zero]
  repeat' split
  all_goals first
    | omega
    | (congr 1; omega)
    | (simp; omega)
    | (simp_all only [Nat.sub_sub, Nat.reduceAdd, BitVec.getLsbD_eq_getElem])

/-- A field that lies at bit `start` of a word is that field. -/
theorem extract_of_bits {n : Nat} (c : CmdWord) (start : Nat) (v : BitVec n)
    (h : ∀ i, i < n → c.getLsbD (start + i) = v.getLsbD i) : c.extractLsb' start n = v := by
  apply BitVec.eq_of_getLsbD_eq
  intro i hi
  simp [hi, h]

@[simp] theorem fieldAtt_packCmd (att : Count) (addr7 : Addr7) (b1 b0 : Byte) (lvl : Level) (op : BitVec 4) :
    fieldAtt (packCmd att addr7 b1 b0 lvl op) = att := by
  refine extract_of_bits _ _ _ fun i hi => ?_
  rw [packCmd_getLsbD]
  repeat' (split; omega)
  congr 1
  omega

@[simp] theorem fieldAddr7_packCmd (att : Count) (addr7 : Addr7) (b1 b0 : Byte) (lvl : Level) (op : BitVec 4) :
    fieldAddr7 (packCmd att addr7 b1 b0 lvl op) = addr7 := by
  refine extract_of_bits _ _ _ fun i hi => ?_
  rw [packCmd_getLsbD]
  repeat' (split; omega)
  rw [if_pos (by omega)]
  congr 1
  omega

@[simp] theorem fieldB1_packCmd (att : Count) (addr7 : Addr7) (b1 b0 : Byte) (lvl : Level) (op : BitVec 4) :
    fieldB1 (packCmd att addr7 b1 b0 lvl op) = b1 := by
  refine extract_of_bits _ _ _ fun i hi => ?_
  rw [packCmd_getLsbD]
  repeat' (split; omega)
  rw [if_pos (by omega)]
  congr 1
  omega

@[simp] theorem fieldB0_packCmd (att : Count) (addr7 : Addr7) (b1 b0 : Byte) (lvl : Level) (op : BitVec 4) :
    fieldB0 (packCmd att addr7 b1 b0 lvl op) = b0 := by
  refine extract_of_bits _ _ _ fun i hi => ?_
  rw [packCmd_getLsbD]
  repeat' (split; omega)
  rw [if_pos (by omega)]
  congr 1
  omega

@[simp] theorem fieldLvl_packCmd (att : Count) (addr7 : Addr7) (b1 b0 : Byte) (lvl : Level) (op : BitVec 4) :
    fieldLvl (packCmd att addr7 b1 b0 lvl op) = lvl := by
  rw [fieldLvl, packCmd_getLsbD]
  rfl

@[simp] theorem fieldOp_packCmd (att : Count) (addr7 : Addr7) (b1 b0 : Byte) (lvl : Level) (op : BitVec 4) :
    fieldOp (packCmd att addr7 b1 b0 lvl op) = op := by
  refine extract_of_bits _ _ _ fun i hi => ?_
  rw [packCmd_getLsbD, if_pos (by omega)]
  congr 1
  omega

/-- RSV0 of a command's word (30_encoding.md R71). -/
theorem rsv0_packCmd (att : Count) (addr7 : Addr7) (b1 b0 : Byte) (lvl : Level) (op : BitVec 4) :
    (packCmd att addr7 b1 b0 lvl op).extractLsb' 5 3 = 0#3 := by
  refine extract_of_bits _ _ _ fun i hi => ?_
  rw [packCmd_getLsbD]
  repeat' (split; omega)
  rw [if_pos (by omega)]
  simp

/-- RSV1 of a command's word (30_encoding.md R71). -/
theorem rsv1_packCmd (att : Count) (addr7 : Addr7) (b1 b0 : Byte) (lvl : Level) (op : BitVec 4) :
    (packCmd att addr7 b1 b0 lvl op).getLsbD 31 = false := by
  rw [packCmd_getLsbD]
  rfl

/-! ### Everything decoding gives (30_encoding.md R74) -/

theorem selects_iff (r : OpRow) (c : CmdWord) : r.selects c = true ↔ c &&& r.mask = r.pattern := by
  simp [OpRow.selects]

/-- The rows have distinct opcodes and every mask covers the opcode, so a word selects at most one row. -/
theorem rows_disjoint (c : CmdWord) {r r' : OpRow} (hr : r ∈ opcodeTable) (hr' : r' ∈ opcodeTable)
    (h : c &&& r.mask = r.pattern) (h' : c &&& r'.mask = r'.pattern) : r = r' := by
  have covers : ∀ q ∈ opcodeTable, q.mask &&& 0xF#64 = 0xF#64 ∧ q.pattern &&& 0xF#64 = q.pattern := by
    decide
  have distinct : ∀ q ∈ opcodeTable, ∀ q' ∈ opcodeTable, q.pattern = q'.pattern → q = q' := by decide
  have low : ∀ q ∈ opcodeTable, c &&& q.mask = q.pattern → c &&& 0xF#64 = q.pattern := by
    intro q hq hc
    rw [← (covers q hq).2, ← hc, BitVec.and_assoc, (covers q hq).1]
  exact distinct r hr r' hr' (by rw [← low r hr h, ← low r' hr' h'])

theorem decode_of_row {c : CmdWord} {r : OpRow} (hr : r ∈ opcodeTable) (h : c &&& r.mask = r.pattern) :
    decode c = .instr (operandsOf r.mnemonic c) := by
  rcases hf : opcodeTable.find? (fun r => r.selects c) with _ | r'
  · rw [List.find?_eq_none] at hf
    exact absurd ((selects_iff r c).mpr h) (by simpa using hf r hr)
  · have hs : r'.selects c = true := by simpa using List.find?_some hf
    have he := rows_disjoint c hr (List.mem_of_find?_eq_some hf) h ((selects_iff r' c).mp hs)
    subst he
    simp only [decode, hf]

/-- A word selects a row and decodes to its command, or selects none and is illegal. -/
theorem decode_cases (c : CmdWord) :
    (∃ r ∈ opcodeTable, c &&& r.mask = r.pattern ∧ decode c = .instr (operandsOf r.mnemonic c))
      ∨ ((∀ r ∈ opcodeTable, c &&& r.mask ≠ r.pattern) ∧ decode c = .illegal (illegalReason c)) := by
  by_cases h : ∃ r ∈ opcodeTable, c &&& r.mask = r.pattern
  · obtain ⟨r, hr, h⟩ := h
    exact .inl ⟨r, hr, h, decode_of_row hr h⟩
  · have h' : ∀ r ∈ opcodeTable, c &&& r.mask ≠ r.pattern := fun r hr hc => h ⟨r, hr, hc⟩
    have hf : opcodeTable.find? (fun r => r.selects c) = none := by
      rw [List.find?_eq_none]
      intro r hr
      rw [selects_iff]
      exact h' r hr
    exact .inr ⟨h', by simp only [decode, hf]⟩

theorem operandsOf_mnemonic (m : Mnemonic) (c : CmdWord) : (operandsOf m c).mnemonic = m := by
  cases m <;> rfl

end Sys2Proof
end

