-- ==== Sys2Proof/Laws/PerInstr.lean ====
section
/-! SUPPORT. Statements about every command as syntax, one lemma for each constructor of `Instr`. -/

namespace Sys2Proof

/-- The word of a command carries the command's opcode and zero reserved bits (30_encoding.md R71, R73). -/
def Laws.EncodedFields.Statement (i : Instr) : Prop :=
  fieldOp (encode i) = i.mnemonic.opcode
    ∧ (encode i).extractLsb' 5 3 = 0#3 ∧ (encode i).getLsbD 31 = false

theorem Laws.EncodedFields.driveSda (l : Level) : Laws.EncodedFields.Statement (.driveSda l) :=
  ⟨fieldOp_packCmd .., rsv0_packCmd .., rsv1_packCmd ..⟩

theorem Laws.EncodedFields.driveScl (l : Level) : Laws.EncodedFields.Statement (.driveScl l) :=
  ⟨fieldOp_packCmd .., rsv0_packCmd .., rsv1_packCmd ..⟩

theorem Laws.EncodedFields.start : Laws.EncodedFields.Statement .start :=
  ⟨fieldOp_packCmd .., rsv0_packCmd .., rsv1_packCmd ..⟩

theorem Laws.EncodedFields.stop : Laws.EncodedFields.Statement .stop :=
  ⟨fieldOp_packCmd .., rsv0_packCmd .., rsv1_packCmd ..⟩

theorem Laws.EncodedFields.sendByte (v : Byte) : Laws.EncodedFields.Statement (.sendByte v) :=
  ⟨fieldOp_packCmd .., rsv0_packCmd .., rsv1_packCmd ..⟩

theorem Laws.EncodedFields.writeReg (a : Addr7) (r v : Byte) (n : Count) :
    Laws.EncodedFields.Statement (.writeReg a r v n) :=
  ⟨fieldOp_packCmd .., rsv0_packCmd .., rsv1_packCmd ..⟩

theorem Laws.EncodedFields.claimBus : Laws.EncodedFields.Statement .claimBus :=
  ⟨fieldOp_packCmd .., rsv0_packCmd .., rsv1_packCmd ..⟩

theorem Laws.EncodedFields.releaseBus : Laws.EncodedFields.Statement .releaseBus :=
  ⟨fieldOp_packCmd .., rsv0_packCmd .., rsv1_packCmd ..⟩

theorem Laws.EncodedFields.bringup : Laws.EncodedFields.Statement .bringup :=
  ⟨fieldOp_packCmd .., rsv0_packCmd .., rsv1_packCmd ..⟩

end Sys2Proof
end

