-- ==== Sys2Proof/Laws/Step.lean ====
section
/-! SUPPORT. Everything one command and one step can do, by cases: proofs over all commands start here. -/

namespace Sys2Proof.Machine

theorem claimed_iff (s : State) : s.claimed = true ↔ s.scl.func = .gpio ∧ s.sda.func = .gpio := by
  simp [State.claimed]

theorem onClaimedBus_claimed (body : State → State) {s : State} (h : s.claimed = true) :
    onClaimedBus body s = .next (body s) := by simp [onClaimedBus, h]

theorem onClaimedBus_unclaimed (body : State → State) {s : State} (h : s.claimed = false) :
    onClaimedBus body s = .next (raiseFault .notClaimed s) := by simp [onClaimedBus, h]

/-- What a bus command does once its check has passed. -/
def busBody : Instr → State → State
  | .driveSda l, s => driveLine .sda l s
  | .driveScl l, s => driveLine .scl l s
  | .start, s => startCondition s
  | .stop, s => stopCondition s
  | .sendByte v, s => (shiftByte v s).2
  | .writeReg a r v n, s => writeRegBody a r v n s
  | .claimBus, s => s
  | .releaseBus, s => s
  | .bringup, s => s

/-- The commands that need a claimed bus (60_exceptions.md R203). -/
def isBusCommand (i : Instr) : Prop :=
  i.mnemonic ∈ [Mnemonic.driveSda, .driveScl, .start, .stop, .sendByte, .writeReg]

/-- Every command gives a next state: its body's, or the one with its fault raised. -/
theorem exec_cases (i : Instr) (s : State) :
    (isBusCommand i ∧ s.claimed = true ∧ exec i s = .next (busBody i s))
      ∨ (isBusCommand i ∧ s.claimed = false ∧ exec i s = .next (raiseFault .notClaimed s))
      ∨ (i = .claimBus ∧ exec i s = .next (claimBusBody s))
      ∨ (i = .releaseBus ∧ exec i s = .next (releaseBusBody s))
      ∨ (i = .bringup ∧ s.orch = .idle ∧ exec i s = .next (bringupBody s))
      ∨ (i = .bringup ∧ s.orch ≠ .idle ∧ exec i s = .next (raiseFault .reentry s)) := by
  rcases hc : s.claimed with _ | _ <;> by_cases hi : s.orch = .idle <;> cases i <;>
    simp [isBusCommand, Instr.mnemonic, exec, execDriveSda, execDriveScl, execStart, execStop, execSendByte,
      execWriteReg, execClaimBus, execReleaseBus, execBringup, onClaimedBus, busBody, hc, hi]

theorem stopReason_none {s : State} (hh : s.halted = false) (hf : s.faultCode = .none) :
    stopReason s = none := by simp [stopReason, hh, hf]

theorem stopReason_halted {s : State} (hh : s.halted = true) : stopReason s = some .stoppedByHalt := by
  simp [stopReason, hh]

theorem stopReason_faulted {s : State} (hh : s.halted = false) (hf : s.faultCode ≠ .none) :
    stopReason s = some .stoppedByFault := by simp [stopReason, hh, hf]

theorem acceptWord_cons {s : State} {c : CmdWord} {rest : List CmdWord} (hp : s.port = c :: rest) :
    acceptWord s = some (c, { s with port := rest }) := by simp [acceptWord, hp]

theorem acceptWord_nil {s : State} (hp : s.port = []) : acceptWord s = none := by simp [acceptWord, hp]

/-- The step of a stopped block. -/
theorem step_stopped {s : State} {r : Fault} (h : stopReason s = some r) : step s = .fault r := by
  simp only [step, h]

/-- The step of a block that waits. -/
theorem step_waits {s : State} (hh : s.halted = false) (hf : s.faultCode = .none) (hp : s.port = []) :
    step s = .next s := by
  simp only [step, stopReason_none hh hf, acceptWord_nil hp, waitForCommand]

/-- The step of a block that accepts a word of no command. -/
theorem step_illegal {s : State} {c : CmdWord} {rest : List CmdWord} {why : IllegalReason}
    (hh : s.halted = false) (hf : s.faultCode = .none) (hp : s.port = c :: rest)
    (hd : decode c = .illegal why) : step s = .next (raiseFault .illegalCmd { s with port := rest }) := by
  simp only [step, stopReason_none hh hf, acceptWord_cons hp, hd, rejectWord]

/-- The step of a block that accepts a command. -/
theorem step_instr {s : State} {c : CmdWord} {rest : List CmdWord} {i : Instr} (hh : s.halted = false)
    (hf : s.faultCode = .none) (hp : s.port = c :: rest) (hd : decode c = .instr i) :
    step s = exec i { s with port := rest } := by
  simp only [step, stopReason_none hh hf, acceptWord_cons hp, hd]

/-- A step that gives a next state: the block was not stopped, and it waited, rejected a word, or ran a
command. -/
theorem step_cases {s t : State} (h : step s = .next t) :
    s.halted = false ∧ s.faultCode = .none
      ∧ ((s.port = [] ∧ t = s)
        ∨ ∃ c rest, s.port = c :: rest
          ∧ ((∃ why, decode c = .illegal why ∧ t = raiseFault .illegalCmd { s with port := rest })
            ∨ ∃ i, decode c = .instr i ∧ exec i { s with port := rest } = .next t)) := by
  by_cases hh : s.halted = false
  · by_cases hf : s.faultCode = .none
    · refine ⟨hh, hf, ?_⟩
      rcases hp : s.port with _ | ⟨c, rest⟩
      · rw [step_waits hh hf hp] at h
        exact .inl ⟨rfl, (Host.Outcome.next.inj h).symm⟩
      · refine .inr ⟨c, rest, rfl, ?_⟩
        rcases hd : decode c with i | why
        · rw [step_instr hh hf hp hd] at h
          exact .inr ⟨i, rfl, h⟩
        · rw [step_illegal hh hf hp hd] at h
          exact .inl ⟨why, rfl, (Host.Outcome.next.inj h).symm⟩
    · rw [step_stopped (stopReason_faulted hh hf)] at h
      cases h
  · rw [step_stopped (stopReason_halted (by simpa using hh))] at h
    cases h

end Sys2Proof.Machine
end

