-- ==== Sys2Proof/Tests/Slice0.lean ====
section
/-! SUPPORT. Tests: words written out from 30_encoding.md, the vectors of 95_test_vectors.md (their configuration is
`Params.sample`), ill-formed assembler lines, and for every statement a state and operands that meet its hypotheses. -/

namespace Sys2Proof.Tests

open Sys2Proof Sys2Proof.Machine

-- The theorems are checked one after the other: each waiting thread would hold a stack of its own.
set_option Elab.async false

/-! ### Helpers -/

/-- The reset state with words on the port and the oracle's coming answers. -/
def fresh (port : List CmdWord) (answers : List Level) : State :=
  { State.resetWith Params.sample with port := port, answers := answers }

/-- The state after reset and `claim` (V40). -/
def claimed (port : List CmdWord) (answers : List Level) : State :=
  { fresh port answers with
    scl := ⟨.gpio, .dir .input, .unspecified⟩
    sda := ⟨.gpio, .dir .input, .unspecified⟩
    trace := claimEvents 10#32 }

/-- The state after reset, `claim` and `start` (V6). -/
def started (port : List CmdWord) (answers : List Level) : State :=
  { fresh port answers with
    scl := ⟨.gpio, .dir .output, .level false⟩
    sda := ⟨.gpio, .dir .output, .level false⟩
    trace := claimEvents 10#32 ++ startEvents 5#32 }

/-- The end state of P3, its trace left out. -/
def finished (port : List CmdWord) : State :=
  { fresh port [] with
    scl := ⟨.alt, .dir .output, .level true⟩
    sda := ⟨.alt, .dir .output, .level true⟩
    lastAck := true
    outcome := .success
    attemptsUsed := 1#32
    orch := .done }

/-- What `f` sees of the next state, if there is one. -/
def seen {α : Type} (f : State → α) (o : Host.Outcome State Fault Refusal) : Option α :=
  match o with
  | .next s => some (f s)
  | .fault _ => none
  | .refused _ => none

/-- The reason of a fault outcome. -/
def stopped (o : Host.Outcome State Fault Refusal) : Option Fault :=
  match o with
  | .next _ => none
  | .fault r => some r
  | .refused _ => none

/-- STATUS, ATTEMPTS_USED, the number of events and the total wait of the whole trace. -/
def summary (s : State) : StatusWord × Nat × Nat × Nat :=
  (s.statusWord, s.attemptsUsed.toNat, s.trace.length, totalWait s.trace)

/-- The numbers of START and STOP conditions. -/
def framing (v : Pin × Pin) (es : List Event) : Nat × Nat := (startConditions v es, stopConditions v es)

/-! ### Well-formedness: each check refuses a term that breaks it (30_encoding.md R77) -/

theorem test_wellFormed_sdaDrive : (Asm.sdaDrive 1).wellFormed = true ∧ (Asm.sdaDrive 2).wellFormed = false := by decide +kernel
theorem test_wellFormed_sclDrive : (Asm.sclDrive 0).wellFormed = true ∧ (Asm.sclDrive 2).wellFormed = false := by decide +kernel
theorem test_wellFormed_sendb : (Asm.sendb 0xFF).wellFormed = true ∧ (Asm.sendb 0x100).wellFormed = false := by decide +kernel
theorem test_wellFormed_wreg :
    (Asm.wreg 0x7F 0xFF 0xFF 0xFFFFFFFF).wellFormed = true ∧ (Asm.wreg 0x80 0 0 0).wellFormed = false
      ∧ (Asm.wreg 0 0x100 0 0).wellFormed = false ∧ (Asm.wreg 0 0 0x100 0).wellFormed = false
      ∧ (Asm.wreg 0 0 0 0x100000000).wellFormed = false := by decide +kernel
theorem test_wellFormed_assemble : assemble (.sendb 0x100) = none ∧ assemble (.sendb 0xFF) = some (.sendByte 0xFF#8) := by
  decide +kernel

/-! ### Decoding: words written bit by bit from the format line of 30_encoding.md R71 and the map of R73 -/

theorem test_decode_driveSda :
    decode 0b0000000000000000000000000000000000000000000000000000000000010001#64 = .instr (.driveSda true) := by decide +kernel
theorem test_decode_driveScl :
    decode 0b0000000000000000000000000000000000000000000000000000000000000010#64 = .instr (.driveScl false) := by decide +kernel
theorem test_decode_start :
    decode 0b0000000000000000000000000000000000000000000000000000000000000011#64 = .instr .start := by decide +kernel
theorem test_decode_stop :
    decode 0b0000000000000000000000000000000000000000000000000000000000000100#64 = .instr .stop := by decide +kernel
theorem test_decode_sendByte :
    decode 0b0000000000000000000000000000000000000000000000001000010100000101#64 = .instr (.sendByte 0x85#8) := by decide +kernel
theorem test_decode_writeReg :
    decode 0b0000000000000000000000000000001101000010010110100001000000000110#64
      = .instr (.writeReg 0x42#7 0x10#8 0x5A#8 3#32) := by decide +kernel
theorem test_decode_claimBus :
    decode 0b0000000000000000000000000000000000000000000000000000000000000111#64 = .instr .claimBus := by decide +kernel
theorem test_decode_releaseBus :
    decode 0b0000000000000000000000000000000000000000000000000000000000001000#64 = .instr .releaseBus := by decide +kernel
theorem test_decode_bringup :
    decode 0b0000000000000000000000000000000000000000000000000000000000001001#64 = .instr .bringup := by decide +kernel

/-- V1o: every operand bit set. -/
theorem test_decode_writeReg_all_ones :
    decode 0xFFFFFFFF7FFFFF06#64 = .instr (.writeReg 0x7F#7 0xFF#8 0xFF#8 0xFFFFFFFF#32) := by decide +kernel

/-- The illegal rows of V1 to V1t. -/
theorem test_decode_illegal :
    decode 0x0#64 = .illegal .reservedOpcode ∧ decode 0xA#64 = .illegal .reservedOpcode
      ∧ decode 0xF#64 = .illegal .reservedOpcode ∧ decode 0x15#64 = .illegal .unusedFieldNonzero
      ∧ decode 0x13#64 = .illegal .unusedFieldNonzero ∧ decode 0x21#64 = .illegal .unusedFieldNonzero
      ∧ decode 0xC25A1006#64 = .illegal .unusedFieldNonzero ∧ decode 0x16#64 = .illegal .unusedFieldNonzero
      ∧ decode 0x100000009#64 = .illegal .unusedFieldNonzero ∧ decode 0x100008505#64 = .illegal .unusedFieldNonzero
      ∧ decode 0x107#64 = .illegal .unusedFieldNonzero
      ∧ decode 0x1000000000000008#64 = .illegal .unusedFieldNonzero := by decide +kernel

theorem test_encode :
    encode (.driveSda true) = 0x11#64 ∧ encode (.driveScl false) = 0x02#64 ∧ encode .start = 0x3#64
      ∧ encode .stop = 0x4#64 ∧ encode (.sendByte 0x85#8) = 0x8505#64
      ∧ encode (.writeReg 0x42#7 0x10#8 0x5A#8 3#32) = 0x3425A1006#64 ∧ encode .claimBus = 0x7#64
      ∧ encode .releaseBus = 0x8#64 ∧ encode .bringup = 0x9#64 := by decide +kernel

theorem test_decodeTableWord :
    decodeTableWord 64 0x8505 = some (.sendByte 0x85#8) ∧ decodeTableWord 64 0x15 = none
      ∧ decodeTableWord 8 0x11 = some (.driveSda true) := by decide +kernel

/-- Lines of text, and lines that are assembly errors (30_encoding.md R77, R78). -/
theorem test_assembleLine :
    assembleLine "wreg 0x42, 0x10, 0x5A, 3" = some 0x3425A1006#64 ∧ assembleLine "scl.low" = some 0x02#64
      ∧ assembleLine "sendb 133" = some 0x8505#64 ∧ assembleLine "sendb 0x100" = none
      ∧ assembleLine "sda.drive 2" = none ∧ assembleLine "start 1" = none := by decide +kernel

/-! ### The meanings: vectors of 95_test_vectors.md, each one step -/

/-- V2 and V3. -/
theorem test_driveSda :
    seen (fun t => (t.sda, t.trace.drop 5)) (exec (.driveSda true) (claimed [] []))
        = some (⟨.gpio, .dir .input, .unspecified⟩, [.setDir .sda .input, .delay 5#32])
      ∧ seen (fun t => (t.sda, t.trace.drop 5)) (exec (.driveSda false) (claimed [] []))
        = some (⟨.gpio, .dir .output, .level false⟩, [.setDir .sda .output, .write .sda false, .delay 5#32]) := by
  decide +kernel

/-- V4 and V5. -/
theorem test_driveScl :
    seen (fun t => (t.scl, t.trace.drop 5)) (exec (.driveScl true) (claimed [] []))
        = some (⟨.gpio, .dir .input, .unspecified⟩, [.setDir .scl .input, .delay 5#32])
      ∧ seen (fun t => (t.scl, t.trace.drop 5)) (exec (.driveScl false) (claimed [] []))
        = some (⟨.gpio, .dir .output, .level false⟩, [.setDir .scl .output, .write .scl false, .delay 5#32]) := by
  decide +kernel

/-- V6. -/
theorem test_start :
    seen (fun t => (t.scl, t.sda, t.trace.length, totalWait t.trace)) (exec .start (claimed [] []))
      = some (⟨.gpio, .dir .output, .level false⟩, ⟨.gpio, .dir .output, .level false⟩, 15, 30) := by decide +kernel

/-- V8: STOP with SCL released writes the SDA latch only. -/
theorem test_stop :
    seen (fun t => (t.scl, t.sda, t.trace.drop 5)) (exec .stop (claimed [] []))
      = some (⟨.gpio, .dir .input, .unspecified⟩, ⟨.gpio, .dir .input, .level false⟩,
          [.setDir .sda .output, .write .sda false, .delay 5#32, .setDir .scl .input, .delay 5#32,
           .setDir .sda .input, .delay 5#32]) := by decide +kernel

/-- V11: not acknowledged. -/
theorem test_sendByte_nack :
    seen summary (exec (.sendByte 0x00#8) (started [] [true])) = some (0x80#32, 0, 89, 170) := by decide +kernel

/-- V23: two attempts fail at the register byte, one at the value byte. -/
theorem test_writeReg_exhausted :
    seen (fun t => (t.statusWord, t.attemptsUsed, t.reads)) (exec (.writeReg 0x42#7 0x10#8 0x5A#8 3#32)
        (claimed [] [false, true, false, true, false, false, true]))
      = some (0x84#32, 3#32, 7) := by decide +kernel

/-- V40. -/
theorem test_claimBus :
    seen (fun t => (t.statusWord, t.scl, t.sda, t.trace)) (exec .claimBus (fresh [] []))
      = some (0x80#32, ⟨.gpio, .dir .input, .unspecified⟩, ⟨.gpio, .dir .input, .unspecified⟩,
          [.setFunc .scl .gpio, .setFunc .sda .gpio, .setDir .scl .input, .setDir .sda .input, .delay 10#32]) := by
  decide +kernel

/-- V41. -/
theorem test_releaseBus :
    seen (fun t => (t.statusWord, t.scl, t.sda, t.trace)) (exec .releaseBus (fresh [] []))
      = some (0x00#32, ⟨.alt, .dir .output, .level true⟩, ⟨.alt, .dir .output, .level true⟩,
          [.write .scl true, .setDir .scl .output, .write .sda true, .setDir .sda .output,
           .setFunc .scl .alt, .setFunc .sda .alt]) := by decide +kernel

/-- P4 and P5. -/
theorem test_bringup_fatal :
    seen (fun t => (t.statusWord, t.attemptsUsed, t.reads)) (exec .bringup (fresh [] [true, true, true]))
        = some (0x10044#32, 3#32, 3)
      ∧ seen (fun t => (t.statusWord, t.attemptsUsed, t.reads))
          (exec .bringup (fresh [] [false, false, false, true, true, true]))
        = some (0x10044#32, 3#32, 6) := by decide +kernel

/-! ### The step, faults and reset -/

/-- V60, V61, V62 and V50. -/
theorem test_step_faults :
    seen State.statusWord (step (fresh [0x15#64] [])) = some 0x100#32
      ∧ seen State.statusWord (step (fresh [0x3#64] [])) = some 0x200#32
      ∧ seen State.statusWord (step (fresh [0x100000009#64] [])) = some 0x100#32
      ∧ seen State.statusWord (step (finished [0x9#64])) = some 0x33B#32 := by decide +kernel

/-- V63 and V51. -/
theorem test_step_stopped :
    stopped (step { fresh [0x7#64] [] with faultCode := .illegalCmd }) = some .stoppedByFault
      ∧ stopped (step { fresh [0x7#64] [] with halted := true, orch := .fatal }) = some .stoppedByHalt := by decide +kernel

theorem test_platformReset : (platformReset { finished [] with faultCode := .reentry }).statusWord = 0#32 := by decide +kernel

/-- A word presented after the fault of V60 is never run, also not after a reset (60_exceptions.md R205). -/
theorem test_hostPresent :
    (hostPresent 0x7#64 { fresh [] [] with faultCode := .illegalCmd }).port = []
      ∧ seen State.statusWord (step (platformReset { fresh [0x7#64] [] with faultCode := .illegalCmd })) = some 0#32
      ∧ seen State.statusWord (step (hostPresent 0x7#64 (fresh [] []))) = some 0x80#32 := by decide +kernel

/-- The START and STOP conditions of 95_test_vectors.md V7 (from SDA low and SCL released) and V8, and those of a
claim after a release and of a release after a START (00_scope.md R15): SDA rises while SCL is driven high. -/
theorem test_framing :
    framing (⟨.gpio, .dir .input, .unspecified⟩, ⟨.gpio, .dir .output, .level false⟩) (startEvents 5#32) = (1, 1)
      ∧ framing (⟨.gpio, .dir .input, .unspecified⟩, ⟨.gpio, .dir .input, .unspecified⟩) (stopEvents 5#32) = (1, 1)
      ∧ framing (⟨.alt, .dir .output, .level true⟩, ⟨.alt, .dir .output, .level true⟩) (claimEvents 10#32) = (0, 0)
      ∧ framing (⟨.gpio, .dir .output, .level false⟩, ⟨.gpio, .dir .output, .level false⟩) releaseEvents = (0, 1) := by
  decide +kernel

theorem test_withFetchWord : seen (fun t => (t.statusWord, t.port)) (step (State.reset.withFetchWord 64 0x8))
    = some (0#32, []) := by decide +kernel

/-- S8. -/
theorem test_halfUs :
    halfUs { Params.sample with freqKhz := 1 } = 500#32 ∧ halfUs { Params.sample with freqKhz := 166 } = 3#32
      ∧ halfUs { Params.sample with freqKhz := 251 } = 1#32 := by decide +kernel

/-- The edges of 00_scope.md R10. -/
theorem test_legal :
    Params.sample.legal = true ∧ (Params.legal { Params.sample with freqKhz := 500 }) = true
      ∧ (Params.legal { Params.sample with freqKhz := 501 }) = false
      ∧ (Params.legal { Params.sample with freqKhz := 0 }) = false
      ∧ (Params.legal { Params.sample with rstWrites := [⟨0x2002#64, 0x44#32⟩] }) = false := by decide +kernel

/-! ### Witnesses: for every statement with hypotheses, a state and operands that meet them, each clause at the
boundary of its range -/

/-- The two ends of the range of legal words of WRITE_REG, and a command without operands. -/
theorem witness_EncodeDecodeRoundTrip :
    decode 0xFFFFFFFF7FFFFF06#64 = .instr (.writeReg 0x7F#7 0xFF#8 0xFF#8 0xFFFFFFFF#32)
      ∧ decode 0x6#64 = .instr (.writeReg 0#7 0#8 0#8 0#32) ∧ decode 0x9#64 = .instr .bringup := by decide +kernel

/-- Clauses 1 and 2: the word 0xFF05 matches the SEND_BYTE row; clause 3: 0x15 matches none, presented to a block
that accepts. -/
theorem witness_RowsDecideDecoding :
    ((⟨.sendByte, 0x5#64, 0xFFFFFFFFFFFF00FF#64⟩ : OpRow) ∈ opcodeTable
        ∧ 0xFF05#64 &&& 0xFFFFFFFFFFFF00FF#64 = 0x5#64)
      ∧ (∀ r ∈ opcodeTable, 0x15#64 &&& r.mask ≠ r.pattern)
      ∧ (fresh [0x15#64] []).halted = false ∧ (fresh [0x15#64] []).faultCode = .none
      ∧ (fresh [0x15#64] []).port = 0x15#64 :: [] := by decide +kernel

/-- Every form with operands, at both ends of its fields. -/
theorem witness_OperandsAreUnsignedFields :
    decode 0x11#64 = .instr (.driveSda true) ∧ decode 0x01#64 = .instr (.driveSda false)
      ∧ decode 0x12#64 = .instr (.driveScl true) ∧ decode 0x02#64 = .instr (.driveScl false)
      ∧ decode 0xFF05#64 = .instr (.sendByte 0xFF#8) ∧ decode 0x05#64 = .instr (.sendByte 0#8)
      ∧ decode 0xFFFFFFFF7FFFFF06#64 = .instr (.writeReg 0x7F#7 0xFF#8 0xFF#8 0xFFFFFFFF#32)
      ∧ decode 0x6#64 = .instr (.writeReg 0#7 0#8 0#8 0#32) := by decide +kernel

/-- Reserved opcodes 0, 10 and 15, and a nonzero unused field, presented to a block that accepts. -/
theorem witness_IllegalWordsRaiseIllegalCmd :
    (0x0#64).toNat % 16 = 0 ∧ 10 ≤ (0xA#64).toNat % 16 ∧ 10 ≤ (0xF#64).toNat % 16
      ∧ (∃ r ∈ opcodeTable, (0x15#64).toNat % 16 = r.mnemonic.opcode.toNat ∧ 0x15#64 &&& r.mask ≠ r.pattern)
      ∧ (fresh [0x15#64] []).halted = false ∧ (fresh [0x15#64] []).faultCode = .none
      ∧ (fresh [0x15#64] []).port = 0x15#64 :: [] := by decide +kernel

theorem witness_StepRunsDecodedCommand :
    (fresh [0x9#64] []).halted = false ∧ (fresh [0x9#64] []).faultCode = .none
      ∧ (fresh [0x9#64] []).port = 0x9#64 :: [] ∧ decode 0x9#64 = .instr .bringup := by decide +kernel

theorem witness_StepWaitsForWord :
    (fresh [] []).halted = false ∧ (fresh [] []).faultCode = .none ∧ (fresh [] []).port = [] := by decide +kernel

/-- Both clauses. -/
theorem witness_StoppedBlockHasNoStep :
    ({ fresh [] [] with halted := true } : State).halted = true
      ∧ ({ fresh [] [] with faultCode := .illegalCmd } : State).halted = false
      ∧ ({ fresh [] [] with faultCode := .illegalCmd } : State).faultCode ≠ .none := by decide +kernel

/-- The first two clauses: a halted, a faulted and a running block. -/
theorem witness_WordsPresentedWhileStoppedNeverRun :
    ({ fresh [] [] with halted := true } : State).halted = true
      ∧ ({ fresh [] [] with faultCode := .illegalCmd } : State).faultCode ≠ .none
      ∧ (fresh [] []).halted = false ∧ (fresh [] []).faultCode = .none := by decide +kernel

/-- Clause 1: `start` on an unclaimed bus (V61); clause 2: a step over an illegal word (V60). -/
theorem witness_FaultsArePrecise :
    seen (fun t => decide (t.faultCode ≠ (fresh [] []).faultCode)) (exec .start (fresh [] [])) = some true
      ∧ seen (fun t => decide (t.faultCode ≠ .none)) (step (fresh [0x0#64] [])) = some true := by decide +kernel

/-- The four clauses: a stopped block; a malformed word on an unclaimed bus (V60); a decoded word whose step faults
(V61) and one whose step does not; a command that faults. -/
theorem witness_FaultPriority :
    ({ fresh [] [] with faultCode := .reentry } : State).faultCode ≠ .none
      ∧ ((fresh [0x15#64] []).halted = false ∧ (fresh [0x15#64] []).faultCode = .none
        ∧ decode 0x15#64 = .illegal .unusedFieldNonzero)
      ∧ (decode 0x3#64 = .instr .start
        ∧ seen (fun t => decide (t.faultCode = .notClaimed)) (step (fresh [0x3#64] [])) = some true
        ∧ seen (fun t => decide (t.faultCode = .none)) (step (claimed [0x3#64] [])) = some true)
      ∧ (fresh [] []).faultCode = .none
      ∧ seen (fun t => decide (t.faultCode ≠ .none)) (exec .start (fresh [] [])) = some true := by decide +kernel

/-- Clause 2: every bus command, with one pin only in GPIO function; clause 3: a BRINGUP that goes on and one that
does not. -/
theorem witness_NotClaimedFault :
    (∀ i ∈ [Instr.driveSda true, .driveScl false, .start, .stop, .sendByte 0#8, .writeReg 0#7 0#8 0#8 0#32],
        i.mnemonic ∈ [Mnemonic.driveSda, .driveScl, .start, .stop, .sendByte, .writeReg])
      ∧ ({ claimed [] [] with sda := Pin.atReset } : State).sda.func ≠ .gpio
      ∧ ({ claimed [] [] with scl := Pin.atReset } : State).scl.func ≠ .gpio
      ∧ seen (fun t => t.faultCode) (exec .bringup (fresh [] [true, true, true])) = some .none
      ∧ seen (fun t => t.faultCode) (exec .bringup (finished [])) = some .reentry := by decide +kernel

theorem witness_ReentryFault :
    (finished []).orch ≠ .idle ∧ ({ fresh [] [] with orch := .claimBus } : State).orch ≠ .idle := by decide +kernel

/-- Clause 1: a command with a next state from a faulted and from a halted state; clause 2: a step. -/
theorem witness_FaultAndHaltAreSticky :
    seen (fun t => (t.faultCode, t.halted)) (exec .claimBus { fresh [] [] with faultCode := .illegalCmd, halted := true })
        = some (.illegalCmd, true)
      ∧ seen (fun t => t.halted) (step (fresh [0x7#64] [])) = some false := by decide +kernel

/-- Both clauses of the statements about one driver command. -/
theorem witness_DriveSdaResult : (claimed [] []).claimed = true ∧ (fresh [] []).claimed = false := by decide +kernel
theorem witness_DriveSclResult : (started [] []).claimed = true ∧ (finished []).claimed = false := by decide +kernel
theorem witness_StartResult : (claimed [] []).claimed = true ∧ (fresh [] []).claimed = false := by decide +kernel
theorem witness_StopResult : (started [] []).claimed = true ∧ (fresh [] []).claimed = false := by decide +kernel

/-- A coming answer 0 and a coming answer 1. -/
theorem witness_SendByteResult :
    (started [] [false]).claimed = true ∧ (started [] [false]).answerAt 0 = false
      ∧ (started [] [true]).claimed = true ∧ (started [] [true]).answerAt 0 = true
      ∧ (fresh [] []).claimed = false := by decide +kernel

theorem witness_SendByteClockPulses : (started [] [false]).claimed = true := by decide +kernel
theorem witness_StartThenStopReleasesBus : (started [] []).claimed = true := by decide +kernel

/-- SEND_BYTE's counts for no 0 bit, eight and five (the rule's example). -/
theorem witness_DriverEventCounts :
    (claimed [] []).claimed = true
      ∧ 37 = 37 + zeroBits 0xFF#8 ∧ 66 = 66 + zeroBits 0xFF#8
      ∧ 45 = 37 + zeroBits 0x00#8 ∧ 74 = 66 + zeroBits 0x00#8
      ∧ 42 = 37 + zeroBits 0x85#8 ∧ 71 = 66 + zeroBits 0x85#8 := by decide +kernel

/-- Each of the three latches. -/
theorem witness_StaleLatchGlitch :
    (claimed [] []).claimed = true ∧ (claimed [] []).sda.latch = .unspecified
      ∧ (started [] []).claimed = true ∧ (started [] []).sda.latch = .level false
      ∧ ({ claimed [] [] with sda := ⟨.gpio, .dir .input, .level true⟩ } : State).claimed = true := by decide +kernel

/-- A claimed bus with SCL released, SDA released and SDA driven low. -/
theorem witness_FramingHazards :
    (claimed [] []).claimed = true ∧ (claimed [] []).scl.contribution = .released
      ∧ (claimed [] []).sda.contribution = .released
      ∧ ({ claimed [] [] with sda := ⟨.gpio, .dir .output, .level false⟩ } : State).claimed = true
      ∧ ({ claimed [] [] with sda := ⟨.gpio, .dir .output, .level false⟩ } : State).scl.contribution = .released
      ∧ ({ claimed [] [] with sda := ⟨.gpio, .dir .output, .level false⟩ } : State).sda.contribution = .low := by
  decide +kernel

/-- A budget of 1 and a budget of 3 with every failing byte. -/
theorem witness_WriteRegExhausted :
    (claimed [] [true]).claimed = true ∧ [NackPoint.address].length = (1#32).toNat
      ∧ (claimed [] [true]).upcoming (nackSamples [.address]).length = nackSamples [.address]
      ∧ [NackPoint.register, .value, .address].length = (3#32).toNat
      ∧ (claimed [] [false, true, false, false, true, true]).upcoming
          (nackSamples [.register, .value, .address]).length = nackSamples [.register, .value, .address] := by
  decide +kernel

/-- Success at the only attempt of a budget of 1, and at the last of 3. -/
theorem witness_WriteRegSucceeds :
    (claimed [] [false, false, false]).claimed = true ∧ ([] : List NackPoint).length < (1#32).toNat
      ∧ (claimed [] [false, false, false]).upcoming (nackSamples [] ++ ackedSamples).length
        = nackSamples [] ++ ackedSamples
      ∧ [NackPoint.address, .value].length < (3#32).toNat
      ∧ (claimed [] [true, false, false, true, false, false, false]).upcoming
          (nackSamples [.address, .value] ++ ackedSamples).length
        = nackSamples [.address, .value] ++ ackedSamples := by decide +kernel

theorem witness_WriteRegZeroBudget : (claimed [] []).claimed = true := by decide +kernel
theorem witness_WriteRegAlwaysCompletes : (claimed [] []).claimed = true := by decide +kernel
theorem witness_WriteRegBounded : (claimed [] []).claimed = true := by decide +kernel

theorem witness_WriteRegFraming :
    (claimed [] []).scl.contribution = .released ∧ (claimed [] []).sda.contribution = .released := by decide +kernel

/-- Clause 1 with a budget of 0 and of 1; clause 2 with a budget of 1. -/
theorem witness_WriteRegWaits :
    (claimed [] [true]).claimed = true
      ∧ ([] : List NackPoint).length = (0#32).toNat
      ∧ (claimed [] [true]).upcoming (nackSamples []).length = nackSamples []
      ∧ [NackPoint.address].length = (1#32).toNat
      ∧ (claimed [] [true]).upcoming (nackSamples [.address]).length = nackSamples [.address]
      ∧ (claimed [] [false, false, false]).claimed = true ∧ ([] : List NackPoint).length < (1#32).toNat
      ∧ (claimed [] [false, false, false]).upcoming (nackSamples [] ++ ackedSamples).length
        = nackSamples [] ++ ackedSamples := by decide +kernel

/-- Two states that differ in pins, registers and trace. -/
theorem witness_WriteRegReadsNoOldState :
    (claimed [] [true]).claimed = true
      ∧ ({ started [] [true] with outcome := .success, lastAck := true } : State).claimed = true
      ∧ (claimed [] [true]).cfg = (started [] [true]).cfg ∧ (claimed [] [true]).answers = (started [] [true]).answers
      ∧ (claimed [] [true]).reads = (started [] [true]).reads := by decide +kernel

/-- Both transactions at their first and at their last attempt. -/
theorem witness_BringupSucceeds :
    (fresh [] [false, false, false, false, false, false]).orch = .idle
      ∧ ([] : List NackPoint).length < (fresh [] []).cfg.vselAttempts.toNat
      ∧ ([] : List NackPoint).length < (fresh [] []).cfg.enAttempts.toNat
      ∧ (fresh [] [false, false, false, false, false, false]).upcoming
          (nackSamples [] ++ ackedSamples ++ (nackSamples [] ++ ackedSamples)).length
        = nackSamples [] ++ ackedSamples ++ (nackSamples [] ++ ackedSamples)
      ∧ [NackPoint.address, .address].length < (fresh [] []).cfg.vselAttempts.toNat
      ∧ [NackPoint.address, .register].length < (fresh [] []).cfg.enAttempts.toNat
      ∧ (fresh [] [true, true, false, false, false, true, false, true, false, false, false]).upcoming
          (nackSamples [.address, .address] ++ ackedSamples ++ (nackSamples [.address, .register] ++ ackedSamples)).length
        = nackSamples [.address, .address] ++ ackedSamples ++ (nackSamples [.address, .register] ++ ackedSamples) := by
  decide +kernel

theorem witness_BringupVoltageFails :
    (fresh [] [true, true, true]).orch = .idle ∧ [NackPoint.address, .address, .address] ≠ []
      ∧ [NackPoint.address, .address, .address].length = (fresh [] []).cfg.vselAttempts.toNat
      ∧ (fresh [] [true, true, true]).upcoming (nackSamples [.address, .address, .address]).length
        = nackSamples [.address, .address, .address] := by decide +kernel

theorem witness_BringupEnableFails :
    (fresh [] [false, false, false, true, true, true]).orch = .idle ∧ [NackPoint.address, .address, .address] ≠ []
      ∧ ([] : List NackPoint).length < (fresh [] []).cfg.vselAttempts.toNat
      ∧ [NackPoint.address, .address, .address].length = (fresh [] []).cfg.enAttempts.toNat
      ∧ (fresh [] [false, false, false, true, true, true]).upcoming
          (nackSamples [] ++ ackedSamples ++ nackSamples [.address, .address, .address]).length
        = nackSamples [] ++ ackedSamples ++ nackSamples [.address, .address, .address] := by decide +kernel

theorem witness_BringupEndsDoneOrFatal : (fresh [] []).orch = .idle := by decide +kernel

theorem witness_BringupWaits :
    (fresh [] [false, false, false, false, false, false]).orch = .idle
      ∧ ([] : List NackPoint).length < (fresh [] []).cfg.vselAttempts.toNat
      ∧ ([] : List NackPoint).length < (fresh [] []).cfg.enAttempts.toNat
      ∧ (fresh [] [false, false, false, false, false, false]).upcoming
          (nackSamples [] ++ ackedSamples ++ (nackSamples [] ++ ackedSamples)).length
        = nackSamples [] ++ ackedSamples ++ (nackSamples [] ++ ackedSamples) := by decide +kernel

theorem witness_BringupReadsNoFeedback :
    (fresh [] [true]).orch = .idle ∧ (started [] [true]).orch = .idle
      ∧ (fresh [] [true]).cfg = (started [] [true]).cfg ∧ (fresh [] [true]).answers = (started [] [true]).answers
      ∧ (fresh [] [true]).reads = (started [] [true]).reads := by decide +kernel

theorem witness_OnlyBringupMovesState :
    Instr.start ≠ .bringup ∧ seen State.orch (exec .start (claimed [] [])) = some .idle := by decide +kernel

/-- Clause 1: LAST_ACK changes; clause 2: OUTCOME changes; clause 3: a WRITE_REG without a fault. -/
theorem witness_ResultRegisterWriters :
    seen (fun t => decide (t.lastAck ≠ (started [] []).lastAck)) (exec (.sendByte 0#8) (started [] [false])) = some true
      ∧ seen (fun t => decide (t.outcome ≠ (claimed [] []).outcome)) (exec (.writeReg 0#7 0#8 0#8 0#32) (claimed [] []))
        = some true
      ∧ seen (fun t => t.faultCode) (exec (.writeReg 0#7 0#8 0#8 0#32) (claimed [] [])) = some .none
      ∧ (claimed [] []).faultCode = .none := by decide +kernel

theorem witness_OnlyClaimAndReleaseSetFunctions :
    Instr.stop.mnemonic ∉ [Mnemonic.claimBus, .releaseBus, .bringup]
      ∧ seen State.claimed (exec .stop (started [] [])) = some true := by decide +kernel

theorem witness_StepExtendsTrace : seen (fun t => t.trace.length) (step (claimed [0x3#64] [])) = some 15 := by
  decide +kernel

theorem witness_StepKeepsBusDiscipline :
    BusDisciplined (claimed [0x3#64] []) ∧ seen State.orch (step (claimed [0x3#64] [])) = some .idle := by
  unfold BusDisciplined
  decide +kernel

/-- A step that keeps it and one that halts. -/
theorem witness_StepKeepsStopConsistency :
    StopConsistent (fresh [0x9#64] [true, true, true])
      ∧ seen State.halted (step (fresh [0x9#64] [true, true, true])) = some true := by
  unfold StopConsistent
  decide +kernel

theorem witness_StepKeepsTraceFaithful :
    TraceFaithful (started [0x8505#64] [false])
      ∧ seen State.lastAck (step (started [0x8505#64] [false])) = some true := by
  unfold TraceFaithful
  decide +kernel

/-- The three ways to meet the hypothesis. -/
theorem witness_ResetValues :
    State.reset = State.reset ∧ (∃ p, fresh [] [] = State.resetWith p)
      ∧ ∃ u, platformReset (finished []) = platformReset u :=
  ⟨rfl, ⟨Params.sample, rfl⟩, ⟨finished [], rfl⟩⟩

/-- The ends of the legal range and the first illegal frequency: quotients 500, 1 and 0. -/
theorem witness_HalfPeriod :
    (1 ≤ (1 : Nat) ∧ 500 * 1 ≤ 500 ∧ 500 < (500 + 1) * 1) ∧ (1 * 500 ≤ 500 ∧ 500 < (1 + 1) * 500)
      ∧ 0 * 501 ≤ 500 ∧ 500 < (0 + 1) * 501 := by decide +kernel

/-- A legal configuration; illegal ones at 0, 501, with one pin twice and outside a range; a half period of 0. -/
theorem witness_OnlyLegalConfigurations :
    Params.sample.legal = true ∧ Params.legal { Params.sample with backoffUs := 99#32 } = false ∧ Params.legal { Params.sample with freqKhz := 0 } = false
      ∧ Params.legal { Params.sample with freqKhz := 501 } = false
      ∧ Params.legal { Params.sample with sdaPin := Params.sample.sclPin } = false
      ∧ (halfUs { Params.sample with freqKhz := 501 }).toNat = 0 := by decide +kernel

/-- The three clauses: SDA driven low; released with an answer queued; released with none. -/
theorem witness_ReadRule :
    ((started [] []).pin .sda).contribution = .low
      ∧ ((claimed [] [true]).pin .sda).contribution ≠ .low ∧ (claimed [] [true]).answers = true :: []
      ∧ ((claimed [] []).pin .sda).contribution ≠ .low ∧ (claimed [] []).answers = [] := by decide +kernel

/-- A pin for each of the six clauses; no pin is under two. -/
theorem witness_LineLevels :
    Pin.atReset.func = .alt
      ∧ (⟨.gpio, .unspecified, .level true⟩ : Pin).dir = .unspecified
      ∧ (⟨.gpio, .dir .input, .level true⟩ : Pin).dir = .dir .input
      ∧ (⟨.gpio, .dir .output, .level false⟩ : Pin).latch = .level false
      ∧ (⟨.gpio, .dir .output, .level true⟩ : Pin).latch = .level true
      ∧ (⟨.gpio, .dir .output, .unspecified⟩ : Pin).latch = .unspecified := by decide +kernel

/-! ### The vectors with long traces, last because they take longest to check -/

/-- V10 and V12: 71 and 66 events after the 15 and 5 of the start states. -/
theorem test_sendByte :
    seen (fun t => (summary t, t.scl, t.sda)) (exec (.sendByte 0x85#8) (started [] [false]))
        = some ((0x81#32, 0, 86, 170), ⟨.gpio, .dir .output, .level false⟩, ⟨.gpio, .dir .input, .level false⟩)
      ∧ seen (fun t => (summary t, t.sda)) (exec (.sendByte 0xFF#8) (claimed [] [false]))
        = some ((0x81#32, 0, 71, 150), ⟨.gpio, .dir .input, .unspecified⟩) := by decide +kernel

/-- V22 and V24. -/
theorem test_writeReg :
    seen summary (exec (.writeReg 0x42#7 0x10#8 0x5A#8 3#32) (claimed [] [true, false, false, false]))
        = some (0x83#32, 2, 327, 740)
      ∧ seen summary (exec (.writeReg 0x42#7 0x10#8 0x5A#8 0#32) (claimed [] []))
        = some (0x84#32, 0, 5, 10) := by decide +kernel

/-- P3. -/
theorem test_bringup :
    seen (fun t => (summary t, mmioWrites t.trace))
        (exec .bringup (fresh [] [false, false, false, false, false, false]))
      = some ((0x3B#32, 1, 492, 2040),
          [⟨0x1000#64, 0x11#32⟩, ⟨0x1004#64, 0x22#32⟩, ⟨0x1008#64, 0x33#32⟩, ⟨0x2000#64, 0x44#32⟩]) := by
  decide +kernel

end Sys2Proof.Tests
end

section
/-! PROOFS. START and STOP conditions along event lists (00_scope.md R15), by the level that THE BLOCK gives each line
before and after a fragment; every fragment is made of `DriveLine`s (40_bit_driver.md R100). -/

namespace Sys2Proof.Machine

/-! ### A line that THE BLOCK releases or drives low -/

theorem contribution_eq_released (v : Pin) :
    v.contribution = .released ↔ v.func = .gpio ∧ v.dir = .dir .input := by
  rcases v with ⟨_ | _, _ | _ | _, _ | _ | _⟩ <;> simp [Pin.contribution]

theorem contribution_eq_low (v : Pin) :
    v.contribution = .low ↔ v.func = .gpio ∧ v.dir = .dir .output ∧ v.latch = .level false := by
  rcases v with ⟨_ | _, _ | _ | _, _ | _ | _⟩ <;> simp [Pin.contribution]

theorem func_of_bitContribution {v : Pin} {b : Level} (h : v.contribution = bitContribution b) :
    v.func = .gpio := by
  cases b
  · exact ((contribution_eq_low v).mp h).1
  · exact ((contribution_eq_released v).mp h).1

theorem contribution_driven {v : Pin} (hv : v.func = .gpio) (b : Level) :
    (v.driven b).contribution = bitContribution b := by
  cases b <;> simp [Pin.driven, Pin.contribution, bitContribution, hv]

theorem releasedLevel_of_bitContribution {v : Pin} {b : Level} (h : v.contribution = bitContribution b) :
    releasedLevel v = .level b := by
  cases b <;> simp [releasedLevel, h, bitContribution, lineLevel]

/-! ### What the observer of framing sees -/

theorem sdaWhileHigh_of_level {v : Pin × Pin} {b : Level} (hc : releasedLevel v.1 = .level true)
    (ha : releasedLevel v.2 = .level b) (last : Option Level) : sdaWhileHigh v last = some b := by
  simp [sdaWhileHigh, hc, ha]

theorem sdaWhileHigh_of_undetermined {v : Pin × Pin} (hc : releasedLevel v.1 = .level true)
    (ha : releasedLevel v.2 = .undetermined) (last : Option Level) : sdaWhileHigh v last = last := by
  simp [sdaWhileHigh, hc, ha]

/-- Both lines released or driven low: SDA's level while SCL is high, whatever was seen before. -/
theorem sdaWhileHigh_of_contributions {v : Pin × Pin} {c a : Level} (hc : v.1.contribution = bitContribution c)
    (ha : v.2.contribution = bitContribution a) (last : Option Level) :
    sdaWhileHigh v last = if c then some a else none := by
  cases c <;>
    simp [sdaWhileHigh, releasedLevel_of_bitContribution hc, releasedLevel_of_bitContribution ha]

theorem sdaWhileHigh_of_scl_low {v : Pin × Pin} (hc : v.1.contribution = .low) (last : Option Level) :
    sdaWhileHigh v last = none := by
  simp [sdaWhileHigh, releasedLevel_of_bitContribution (b := false) hc]

/-- SDA at the level `a`: nothing else is seen, whatever SCL does. -/
theorem sdaWhileHigh_of_sda {v : Pin × Pin} {a : Level} (ha : v.2.contribution = bitContribution a)
    (last : Option Level) : sdaWhileHigh v last = none ∨ sdaWhileHigh v last = some a := by
  unfold sdaWhileHigh
  rw [releasedLevel_of_bitContribution ha]
  rcases releasedLevel v.1 with (_ | _) | _ <;> simp

/-- After a list of events that ends with both lines released or driven low. -/
theorem levelAlong_of_contributions {es : List Event} (hne : es ≠ []) {v : Pin × Pin} {c a : Level}
    (hc : (replayPins v es).1.contribution = bitContribution c)
    (ha : (replayPins v es).2.contribution = bitContribution a) (last : Option Level) :
    levelAlong v last es = if c then some a else none := by
  obtain ⟨fs, e, rfl⟩ := (List.eq_nil_or_concat' es).resolve_left hne
  rw [levelAlong_append]
  rw [replayPins_append] at hc ha
  exact sdaWhileHigh_of_contributions hc ha _

theorem no_condition_of_steady {a : Level} {before after : Option Level} (hb : before = none ∨ before = some a)
    (ha : after = none ∨ after = some a) :
    startsAt before after = false ∧ stopsAt before after = false := by
  rcases hb with rfl | rfl <;> rcases ha with rfl | rfl <;> cases a <;> decide

/-- Events that leave SDA alone make no condition: SDA has one level whenever it is seen. -/
theorem no_conditions_of_sda_fixed {es : List Event} (hes : ∀ e ∈ es, ∀ v, (replayEvent v e).2 = v.2) {a : Level}
    {v : Pin × Pin} (hv : v.2.contribution = bitContribution a) {last : Option Level}
    (hlast : last = none ∨ last = some a) :
    countAlong startsAt v last es = 0 ∧ countAlong stopsAt v last es = 0 := by
  induction es generalizing v last with
  | nil => exact ⟨rfl, rfl⟩
  | cons e es ih =>
    have hv' : (replayEvent v e).2.contribution = bitContribution a := by
      rw [hes e List.mem_cons_self v, hv]
    have hnow := sdaWhileHigh_of_sda hv' last
    obtain ⟨hstart, hstop⟩ := no_condition_of_steady hlast hnow
    obtain ⟨hstarts, hstops⟩ := ih (fun e' he' => hes e' (List.mem_cons_of_mem e he')) hv' hnow
    simp [countAlong, hstart, hstop, hstarts, hstops]

/-- Events that leave a low SCL alone make no condition: SDA is never seen. -/
theorem no_conditions_of_scl_low {es : List Event} (hes : ∀ e ∈ es, ∀ v, (replayEvent v e).1 = v.1)
    {v : Pin × Pin} (hv : v.1.contribution = .low) :
    countAlong startsAt v none es = 0 ∧ countAlong stopsAt v none es = 0 := by
  induction es generalizing v with
  | nil => exact ⟨rfl, rfl⟩
  | cons e es ih =>
    have hv' : (replayEvent v e).1.contribution = .low := by rw [hes e List.mem_cons_self v, hv]
    obtain ⟨hstarts, hstops⟩ := ih (fun e' he' => hes e' (List.mem_cons_of_mem e he')) hv'
    simp [countAlong, sdaWhileHigh_of_scl_low hv', hstarts, hstops, startsAt, stopsAt]

/-! ### The framing of an event list -/

/-- The boundary of a fragment: THE BLOCK gives SCL the level `c` and SDA the level `a`, released for 1 and driven low
for 0, and `last` is what the observer has seen of them. -/
def LinesAt (c a : Level) (v : Pin × Pin) (last : Option Level) : Prop :=
  v.1.contribution = bitContribution c ∧ v.2.contribution = bitContribution a
    ∧ last = if c then some a else none

/-- From lines at `c` and `a` the events make `starts` START and `stops` STOP conditions and leave the lines at `c'`
and `a'`. -/
def Frames (c a : Level) (es : List Event) (starts stops : Nat) (c' a' : Level) : Prop :=
  ∀ (v : Pin × Pin) (last : Option Level), LinesAt c a v last →
    countAlong startsAt v last es = starts ∧ countAlong stopsAt v last es = stops
      ∧ LinesAt c' a' (replayPins v es) (levelAlong v last es)

theorem Frames.nil (c a : Level) : Frames c a [] 0 0 c a := fun _ _ h => ⟨rfl, rfl, h⟩

theorem Frames.append {c a c' a' c'' a'' : Level} {es fs : List Event} {m n m' n' : Nat}
    (he : Frames c a es m n c' a') (hf : Frames c' a' fs m' n' c'' a'') :
    Frames c a (es ++ fs) (m + m') (n + n') c'' a'' := by
  intro v last h
  obtain ⟨heStarts, heStops, heEnd⟩ := he v last h
  obtain ⟨hfStarts, hfStops, hfEnd⟩ := hf _ _ heEnd
  simp only [countAlong_append, levelAlong_append, replayPins_append]
  exact ⟨by rw [heStarts, hfStarts], by rw [heStops, hfStops], hfEnd⟩

/-- The conditions an observer counts who starts with the lines as they are. -/
theorem Frames.conditions {c a c' a' : Level} {es : List Event} {m n : Nat} (hf : Frames c a es m n c' a')
    {v : Pin × Pin} (hc : v.1.contribution = bitContribution c) (ha : v.2.contribution = bitContribution a) :
    startConditions v es = m ∧ stopConditions v es = n := by
  obtain ⟨hstarts, hstops, -⟩ := hf v _ ⟨hc, ha, sdaWhileHigh_of_contributions hc ha none⟩
  exact ⟨hstarts, hstops⟩

/-- A fragment that leaves SDA alone. -/
theorem frames_of_sda_fixed {c a c' : Level} {es : List Event} (hne : es ≠ [])
    (hsda : ∀ e ∈ es, ∀ v, (replayEvent v e).2 = v.2)
    (hend : ∀ v : Pin × Pin, v.1.contribution = bitContribution c →
      (replayPins v es).1.contribution = bitContribution c' ∧ (replayPins v es).2 = v.2) :
    Frames c a es 0 0 c' a := by
  rintro v _ ⟨hc, ha, rfl⟩
  obtain ⟨hc', hsame⟩ := hend v hc
  have ha' : (replayPins v es).2.contribution = bitContribution a := by rw [hsame, ha]
  obtain ⟨hstarts, hstops⟩ := no_conditions_of_sda_fixed hsda ha
    (last := if c then some a else none) (by cases c <;> simp)
  exact ⟨hstarts, hstops, hc', ha', levelAlong_of_contributions hne hc' ha' _⟩

/-! ### Waits, reads and `DriveLine` -/

theorem frames_delay (d : Micros) (c a : Level) : Frames c a [.delay d] 0 0 c a :=
  frames_of_sda_fixed (by simp) (by simp [replayEvent]) (fun _ hc => ⟨hc, rfl⟩)

theorem frames_read (p : Line) (r : Level) (c a : Level) : Frames c a [.read p r] 0 0 c a :=
  frames_of_sda_fixed (by simp) (by simp [replayEvent]) (fun _ hc => ⟨hc, rfl⟩)

theorem replayEvent_delay (v : Pin × Pin) (d : Micros) : replayEvent v (.delay d) = v := rfl

theorem driveEvents_ne_nil (h : Micros) (p : Line) (b : Level) : driveEvents h p b ≠ [] := by
  cases b <;> simp [driveEvents]

theorem replayPins_drive_scl (h : Micros) (b : Level) (v : Pin × Pin) :
    replayPins v (driveEvents h .scl b) = (v.1.driven b, v.2) := by
  cases b <;> rfl

theorem replayPins_drive_sda (h : Micros) (b : Level) (v : Pin × Pin) :
    replayPins v (driveEvents h .sda b) = (v.1, v.2.driven b) := by
  cases b <;> rfl

/-- Moving SCL makes no condition, whatever a stale latch shows on its way low. -/
theorem frames_drive_scl (h : Micros) (c a b : Level) : Frames c a (driveEvents h .scl b) 0 0 b a := by
  refine frames_of_sda_fixed (driveEvents_ne_nil h .scl b) ?_ fun v hc => ?_
  · cases b <;> simp [driveEvents, replayEvent]
  · rw [replayPins_drive_scl]
    exact ⟨contribution_driven (func_of_bitContribution hc) b, rfl⟩

/-- Moving SDA under a low SCL makes no condition (41_transaction.md R138). -/
theorem frames_drive_sda_scl_low (h : Micros) (a b : Level) :
    Frames false a (driveEvents h .sda b) 0 0 false b := by
  rintro v _ ⟨hc, ha, rfl⟩
  have hscl : ∀ e ∈ driveEvents h .sda b, ∀ v, (replayEvent v e).1 = v.1 := by
    cases b <;> simp [driveEvents, replayEvent]
  obtain ⟨hstarts, hstops⟩ := no_conditions_of_scl_low hscl hc
  have hend := replayPins_drive_sda h b v
  have hc' : (replayPins v (driveEvents h .sda b)).1.contribution = bitContribution false := by rw [hend, hc]
  have ha' : (replayPins v (driveEvents h .sda b)).2.contribution = bitContribution b := by
    rw [hend]
    exact contribution_driven (func_of_bitContribution ha) b
  exact ⟨hstarts, hstops, hc', ha', levelAlong_of_contributions (driveEvents_ne_nil h .sda b) hc' ha' _⟩

/-- The stale-latch glitch of a drive low (70_reset_and_hazards.md R243) under a released SCL: between its two events
SDA is seen at its old level or already low. -/
theorem sdaWhileHigh_glitch {v : Pin × Pin} {a : Level} (hc : v.1.contribution = .released)
    (ha : v.2.contribution = bitContribution a) :
    sdaWhileHigh (replayEvent v (.setDir .sda .output)) (some a) = some a
      ∨ sdaWhileHigh (replayEvent v (.setDir .sda .output)) (some a) = some false := by
  have hhigh : releasedLevel (replayEvent v (.setDir .sda .output)).1 = .level true :=
    releasedLevel_of_bitContribution (b := true) hc
  obtain ⟨scl, ⟨f, d, l⟩⟩ := v
  obtain rfl : f = .gpio := func_of_bitContribution ha
  rcases l with _ | _ | _
  case unspecified => exact .inl (sdaWhileHigh_of_undetermined hhigh rfl _)
  case level.false => exact .inr (sdaWhileHigh_of_level hhigh rfl _)
  case level.true =>
    cases a
    case false => exact absurd ((contribution_eq_low _).mp ha).2.2 (by simp)
    case true => exact .inl (sdaWhileHigh_of_level hhigh rfl _)

/-- Moving SDA under a released SCL: a START when SDA falls, a STOP when it rises, each once whatever SDA's latch held
(00_scope.md R15). -/
theorem frames_drive_sda_scl_high (h : Micros) (a b : Level) :
    Frames true a (driveEvents h .sda b) (a && !b).toNat (!a && b).toNat true b := by
  rintro v _ ⟨hc, ha, rfl⟩
  have hend := replayPins_drive_sda h b v
  have hc' : (replayPins v (driveEvents h .sda b)).1.contribution = bitContribution true := by rw [hend, hc]
  have ha' : (replayPins v (driveEvents h .sda b)).2.contribution = bitContribution b := by
    rw [hend]
    exact contribution_driven (func_of_bitContribution ha) b
  have hseen := sdaWhileHigh_of_contributions hc' ha'
  refine and_assoc.mp ⟨?_, hc', ha', levelAlong_of_contributions (driveEvents_ne_nil h .sda b) hc' ha' _⟩
  cases b
  case true =>
    have hrelease : ∀ last, sdaWhileHigh (replayEvent v (.setDir .sda .input)) last = some true := hseen
    cases a <;> simp [driveEvents, countAlong, replayEvent_delay, hrelease, startsAt, stopsAt]
  case false =>
    have hlow : ∀ last,
        sdaWhileHigh (replayEvent (replayEvent v (.setDir .sda .output)) (.write .sda false)) last = some false :=
      hseen
    rcases sdaWhileHigh_glitch hc ha with hglitch | hglitch <;> cases a <;>
      simp [driveEvents, countAlong, replayEvent_delay, hglitch, hlow, startsAt, stopsAt]

/-! ### The fragments of a transaction (40_bit_driver.md; 41_transaction.md R132) -/

theorem startEvents_eq_drives (h : Micros) : startEvents h =
    driveEvents h .sda true ++ driveEvents h .scl true ++ driveEvents h .sda false ++ driveEvents h .scl false := rfl

theorem stopEvents_eq_drives (h : Micros) : stopEvents h =
    driveEvents h .sda false ++ driveEvents h .scl true ++ driveEvents h .sda true := rfl

/-- START on a released SCL: the START condition, after a STOP condition if SDA was low (40_bit_driver.md R104). -/
theorem frames_start (h : Micros) (a : Level) : Frames true a (startEvents h) 1 (!a).toNat false false := by
  have hf := (((frames_drive_sda_scl_high h a true).append (frames_drive_scl h true true true)).append
    (frames_drive_sda_scl_high h true false)).append (frames_drive_scl h true false false)
  cases a <;> exact hf

/-- STOP on a released SCL: the STOP condition, after a START condition if SDA was high (40_bit_driver.md R105). -/
theorem frames_stop_scl_high (h : Micros) (a : Level) : Frames true a (stopEvents h) a.toNat 1 true true := by
  have hf := ((frames_drive_sda_scl_high h a false).append (frames_drive_scl h true false true)).append
    (frames_drive_sda_scl_high h false true)
  cases a <;> exact hf

theorem frames_stop_scl_low (h : Micros) (a : Level) : Frames false a (stopEvents h) 0 1 true true :=
  ((frames_drive_sda_scl_low h a false).append (frames_drive_scl h false false true)).append
    (frames_drive_sda_scl_high h false true)

theorem frames_bit (h : Micros) (a b : Level) : Frames false a (bitEvents h b) 0 0 false b :=
  ((frames_drive_sda_scl_low h a b).append (frames_drive_scl h false b true)).append
    (frames_drive_scl h true b false)

theorem frames_bits (h : Micros) (a : Level) (bs : List Level) :
    Frames false a (bs.flatMap (bitEvents h)) 0 0 false (bs.getLastD a) := by
  induction bs generalizing a with
  | nil => exact Frames.nil false a
  | cons b bs ih =>
    rw [List.flatMap_cons, List.getLastD_cons]
    exact (frames_bit h a b).append (ih b)

theorem frames_ack (h : Micros) (a r : Level) : Frames false a (ackEvents h r) 0 0 false true :=
  ((((frames_drive_sda_scl_low h a true).append (frames_drive_scl h false true true)).append
    (frames_read .sda r true true)).append (frames_drive_scl h true true false)).append
    (frames_drive_sda_scl_low h true true)

/-- No condition arises inside a byte (41_transaction.md R138). -/
theorem frames_shift (h : Micros) (a : Level) (v : Byte) (r : Level) :
    Frames false a (shiftEvents h v r) 0 0 false true :=
  (frames_bits h a (msbFirst v)).append (frames_ack h _ r)

/-! ### Attempts and their backoffs (41_transaction.md R132, R135) -/

/-- An attempt on an idle bus makes one START and one STOP condition, wherever it ends. -/
theorem frames_failed (h : Micros) (w : RegWrite) (f : NackPoint) :
    Frames true true (failedEvents h w f) 1 1 true true := by
  have haddress r := (frames_start h true).append (frames_shift h false (addressByte w.addr7) r)
  cases f
  case address => exact (haddress true).append (frames_stop_scl_low h true)
  case register =>
    exact ((haddress false).append (frames_shift h true w.reg true)).append (frames_stop_scl_low h true)
  case value =>
    exact (((haddress false).append (frames_shift h true w.reg false)).append
      (frames_shift h true w.value true)).append (frames_stop_scl_low h true)

theorem frames_acked (h : Micros) (w : RegWrite) : Frames true true (ackedEvents h w) 1 1 true true :=
  ((((frames_start h true).append (frames_shift h false (addressByte w.addr7) false)).append
    (frames_shift h true w.reg false)).append (frames_shift h true w.value false)).append
    (frames_stop_scl_low h true)

/-- Attempts with a wait between them make as many conditions of each kind as there are attempts. -/
theorem frames_intercalate (d : Micros) {xs : List (List Event)}
    (hxs : ∀ x ∈ xs, Frames true true x 1 1 true true) :
    Frames true true ([Event.delay d].intercalate xs) xs.length xs.length true true := by
  induction xs with
  | nil => exact Frames.nil true true
  | cons x xs ih =>
    have hx := hxs x List.mem_cons_self
    by_cases hne : xs = []
    · subst hne
      simpa [List.intercalate] using hx
    · have hrest := ih fun y hy => hxs y (List.mem_cons_of_mem x hy)
      rw [intercalate_cons_ne _ _ _ hne, List.length_cons, Nat.add_comm]
      exact (hx.append (frames_delay d true true)).append hrest

theorem frames_exhausted (p : Params) (w : RegWrite) (fs : List NackPoint) :
    Frames true true (exhaustedEvents p w fs) fs.length fs.length true true := by
  have hf := frames_intercalate p.backoffUs (xs := fs.map (failedEvents (halfUs p) w)) (by
    intro x hx
    obtain ⟨f, -, rfl⟩ := List.mem_map.mp hx
    exact frames_failed (halfUs p) w f)
  rwa [List.length_map] at hf

theorem frames_succeeded (p : Params) (w : RegWrite) (fs : List NackPoint) :
    Frames true true (succeededEvents p w fs) (fs.length + 1) (fs.length + 1) true true := by
  have hf := frames_intercalate p.backoffUs
    (xs := fs.map (failedEvents (halfUs p) w) ++ [ackedEvents (halfUs p) w]) (by
      intro x hx
      rcases List.mem_append.mp hx with hx | hx
      · obtain ⟨f, -, rfl⟩ := List.mem_map.mp hx
        exact frames_failed (halfUs p) w f
      · rw [List.mem_singleton.mp hx]
        exact frames_acked (halfUs p) w)
  rwa [List.length_append, List.length_map, List.length_singleton] at hf

/-! ### Commands (40_bit_driver.md R102, R104, R105; 41_transaction.md R130) -/

theorem exec_of_claimed {i : Instr} (hi : isBusCommand i) {s : State} (hs : s.claimed = true) :
    exec i s = .next (busBody i s) := by
  rcases exec_cases i s with ⟨-, -, h⟩ | ⟨-, hc, -⟩ | ⟨rfl, -⟩ | ⟨rfl, -⟩ | ⟨rfl, -⟩ | ⟨rfl, -⟩
  · exact h
  · simp [hs] at hc
  all_goals simp [isBusCommand, Instr.mnemonic] at hi

theorem driveLine_sda_trace (b : Level) (s : State) :
    (driveLine .sda b s).trace = s.trace ++ driveEvents (halfUs s.cfg) .sda b := by rw [driveLine_sda]

theorem startCondition_trace (s : State) :
    (startCondition s).trace = s.trace ++ startEvents (halfUs s.cfg) := by rw [startCondition_eq]

theorem stopCondition_trace (s : State) :
    (stopCondition s).trace = s.trace ++ stopEvents (halfUs s.cfg) := by rw [stopCondition_eq]

/-- The command completes and its events make `starts` START and `stops` STOP conditions. -/
def ExecConditions (i : Instr) (s : State) (starts stops : Nat) : Prop :=
  ∃ (t : State) (es : List Event), exec i s = .next t ∧ t.trace = s.trace ++ es
    ∧ startConditions (s.scl, s.sda) es = starts ∧ stopConditions (s.scl, s.sda) es = stops

theorem execConditions_of_frames {i : Instr} (hi : isBusCommand i) {s : State} (hs : s.claimed = true)
    {c a c' a' : Level} (hc : s.scl.contribution = bitContribution c) (ha : s.sda.contribution = bitContribution a)
    {es : List Event} (hes : (busBody i s).trace = s.trace ++ es) {m n : Nat} (hf : Frames c a es m n c' a') :
    ExecConditions i s m n :=
  ⟨busBody i s, es, exec_of_claimed hi hs, hes, hf.conditions hc ha⟩

section ReleasedScl

variable {s : State} (hs : s.claimed = true) (hscl : s.scl.contribution = .released) {a : Level}
  (hsda : s.sda.contribution = bitContribution a)
include hs hscl hsda

theorem execConditions_driveSda (b : Level) :
    ExecConditions (.driveSda b) s (a && !b).toNat (!a && b).toNat :=
  execConditions_of_frames (i := .driveSda b) (by simp [isBusCommand, Instr.mnemonic]) hs (c := true) hscl hsda
    (driveLine_sda_trace b s) (frames_drive_sda_scl_high _ a b)

theorem execConditions_start : ExecConditions .start s 1 (!a).toNat :=
  execConditions_of_frames (i := .start) (by simp [isBusCommand, Instr.mnemonic]) hs (c := true) hscl hsda
    (startCondition_trace s) (frames_start _ a)

theorem execConditions_stop : ExecConditions .stop s a.toNat 1 :=
  execConditions_of_frames (i := .stop) (by simp [isBusCommand, Instr.mnemonic]) hs (c := true) hscl hsda
    (stopCondition_trace s) (frames_stop_scl_high _ a)

end ReleasedScl

/-- A register write on an idle bus: what it appends to the trace frames as many attempts as it used. -/
theorem writeRegBody_frames (w : RegWrite) (n : Count) (s : State) :
    ∃ es, (writeRegBody w.addr7 w.reg w.value n s).trace = s.trace ++ es
      ∧ Frames true true es (writeRegBody w.addr7 w.reg w.value n s).attemptsUsed.toNat
          (writeRegBody w.addr7 w.reg w.value n s).attemptsUsed.toNat true true := by
  rcases writeRegBody_cases w n s with ⟨fs, hlen, -, hbody⟩ | ⟨fs, hlen, -, hbody⟩ <;> rw [hbody]
  · refine ⟨exhaustedEvents s.cfg w fs, ?_, ?_⟩
    · by_cases hfs : fs = []
      · simp [hfs, exhaustedEvents_nil]
      · simp [hfs, State.afterAttempts]
    · rw [setTxResult_attemptsUsed, ← hlen]
      exact frames_exhausted s.cfg w fs
  · refine ⟨succeededEvents s.cfg w fs, rfl, ?_⟩
    have hused : (BitVec.ofNat 32 (fs.length + 1)).toNat = fs.length + 1 := by
      rw [BitVec.toNat_ofNat, Nat.mod_eq_of_lt (by omega)]
    rw [setTxResult_attemptsUsed, hused]
    exact frames_succeeded s.cfg w fs

/-! ### The obligations -/

/-- Settles O26, from the conditions of STOP, START and DRIVE_SDA at each level of SDA. -/
theorem framingHazards : Obligations.FramingHazards := by
  intro s hs hscl i starts stops hcase
  split at hcase
  case h_9 => exact hcase.elim
  all_goals
    rename_i hsda
    obtain ⟨rfl, rfl⟩ := hcase
  · exact execConditions_stop hs hscl (a := true) hsda
  · exact execConditions_stop hs hscl (a := false) hsda
  · exact execConditions_start hs hscl (a := true) hsda
  · exact execConditions_start hs hscl (a := false) hsda
  · exact execConditions_driveSda hs hscl (a := true) hsda false
  · exact execConditions_driveSda hs hscl (a := true) hsda true
  · exact execConditions_driveSda hs hscl (a := false) hsda true
  · exact execConditions_driveSda hs hscl (a := false) hsda false

/-- Settles O32: attempts frame themselves, and the backoffs between them make no condition. -/
theorem writeRegFraming : Obligations.WriteRegFraming := by
  intro w n s hscl hsda
  have hs : s.claimed = true :=
    (claimed_iff s).mpr ⟨((contribution_eq_released _).mp hscl).1, ((contribution_eq_released _).mp hsda).1⟩
  obtain ⟨es, htrace, hf⟩ := writeRegBody_frames w n s
  exact ⟨_, es, exec_of_claimed (by simp [isBusCommand, Instr.mnemonic]) hs, htrace, hf.conditions hscl hsda⟩

end Sys2Proof.Machine
end

section
/-! PROOFS. The configuration and the reset state: the half period (00_scope.md R9), which configurations are legal (R8,
R10), and the invariants at reset (10_state.md R43). -/

namespace Sys2Proof.Machine

/-! ### The half period (00_scope.md R9) -/

/-- The quotient fits its 32 bits. -/
theorem halfUs_toNat (p : Params) : (halfUs p).toNat = 500 / p.freqKhz := by
  have hle : 500 / p.freqKhz ≤ 500 := Nat.div_le_self 500 p.freqKhz
  rw [halfUs, BitVec.toNat_ofNat, Nat.mod_eq_of_lt (by omega)]

/-- Settles O54, by the characterisation of truncated division. -/
theorem halfPeriod : Obligations.HalfPeriod := by
  refine ⟨fun p hf q => ?_, rfl, rfl, rfl⟩
  rw [halfUs_toNat, Nat.div_eq_iff hf, Nat.add_one_mul]
  omega

/-! ### Legal configurations (00_scope.md R8, R10) -/

theorem instantiate_legal {p : Params} (hp : p.legal = true) : instantiate p = .next (State.resetWith p) := by
  simp [instantiate, hp]

theorem instantiate_illegal {p : Params} (hp : p.legal = false) :
    instantiate p = .refused .illegalConfiguration := by
  simp [instantiate, hp]

theorem microsIn_iff (lo hi : Nat) (v : Micros) : microsIn lo hi v = true ↔ lo ≤ v.toNat ∧ v.toNat ≤ hi := by
  simp [microsIn]

theorem all_aligned_iff (ws : List MmioPair) :
    ws.all MmioPair.aligned = true ↔ ∀ w ∈ ws, w.addr.toNat % 4 = 0 := by
  simp [MmioPair.aligned]

theorem instantiable_iff (p : Params) : p.instantiable = true ↔
    1 ≤ p.freqKhz ∧ p.freqKhz ≤ 500 ∧ p.sclPin ≠ p.sdaPin ∧ p.clkWrites.length = 3 ∧ p.rstWrites ≠ []
      ∧ ∀ w ∈ p.clkWrites ++ p.rstWrites, w.addr.toNat % 4 = 0 := by
  simp only [Params.instantiable, Bool.and_eq_true, decide_eq_true_eq, all_aligned_iff, List.forall_mem_append,
    Nat.one_le_iff_ne_zero, List.length_eq_zero_iff, ne_eq]
  tauto

theorem inRanges_iff (p : Params) : p.inRanges = true ↔
    (100 ≤ p.backoffUs.toNat ∧ p.backoffUs.toNat ≤ 999)
      ∧ (10 ≤ p.claimSettleUs.toNat ∧ p.claimSettleUs.toNat ≤ 99)
      ∧ (100 ≤ p.vselSettleUs.toNat ∧ p.vselSettleUs.toNat ≤ 999)
      ∧ (500 ≤ p.enSettleUs.toNat ∧ p.enSettleUs.toNat ≤ 5000)
      ∧ (10 ≤ p.clkSettleUs.toNat ∧ p.clkSettleUs.toNat ≤ 99)
      ∧ 1 ≤ p.rstSettleUs.toNat ∧ 1 ≤ p.vselAttempts.toNat ∧ 1 ≤ p.enAttempts.toNat := by
  simp only [Params.inRanges, Bool.and_eq_true, decide_eq_true_eq, microsIn_iff, and_assoc]

theorem legal_iff (p : Params) : p.legal = true ↔ p.instantiable = true ∧ p.inRanges = true := by
  simp [Params.legal]

theorem halfUs_pos_of_legal {p : Params} (hp : p.legal = true) : 0 < (halfUs p).toNat := by
  obtain ⟨hpos, hmax, -⟩ := (instantiable_iff p).mp ((legal_iff p).mp hp).1
  rw [halfUs_toNat]
  exact Nat.div_pos hmax hpos

/-- Settles O55: a half period of 0 is illegal because a legal one is positive. -/
theorem onlyLegalConfigurations : Obligations.OnlyLegalConfigurations := by
  refine ⟨fun p => instantiate_legal, fun p => instantiate_illegal, fun p => ?_, fun p => halfUs_pos_of_legal,
    fun p hzero => instantiate_illegal (Bool.eq_false_iff.mpr fun hp => ?_)⟩
  · rw [legal_iff, instantiable_iff, inRanges_iff]
  · exact absurd hzero (halfUs_pos_of_legal hp).ne'

/-! ### The reset state (10_state.md R43; 70_reset_and_hazards.md R230) -/

/-- Neither pin is in GPIO function. -/
theorem busDisciplined_resetWith (p : Params) : BusDisciplined (State.resetWith p) :=
  ⟨rfl, nofun, nofun⟩

/-- STATE is Idle, not halted. -/
theorem stopConsistent_resetWith (p : Params) : StopConsistent (State.resetWith p) :=
  ⟨⟨nofun, nofun⟩, nofun, .inl rfl⟩

/-- The empty trace tells the reset values. -/
theorem traceFaithful_resetWith (p : Params) : TraceFaithful (State.resetWith p) :=
  ⟨rfl, rfl, ⟨nofun, nofun⟩, rfl⟩

theorem sample_legal : Params.sample.legal = true := by decide

/-- The chosen configuration is taken only where it is legal (log 2). -/
theorem params_legal : Config.params.legal = true := by
  unfold Config.params
  split
  · assumption
  · exact sample_legal

/-- Settles O51, invariant by invariant. -/
theorem resetMeetsInvariants : Obligations.ResetMeetsInvariants :=
  ⟨fun p => ⟨busDisciplined_resetWith p, stopConsistent_resetWith p, traceFaithful_resetWith p⟩, params_legal⟩

end Sys2Proof.Machine
end

section
/-! PROOFS. The operations that commands are made of, and the induction over them: each command is a run of the
operations its row of the opcode map uses (30_encoding.md R73), so what every such operation keeps the command keeps, and
what every operation keeps the step keeps. -/

namespace Sys2Proof.Machine

/-! ### One law for both lines, and the ACK sample -/

theorem driveLine_eq (p : Line) (level : Level) (s : State) : driveLine p level s =
    { s with
      scl := if p = .scl then s.scl.driven level else s.scl
      sda := if p = .sda then s.sda.driven level else s.sda
      trace := s.trace ++ driveEvents (halfUs s.cfg) p level } := by
  cases p
  · exact driveLine_scl level s
  · exact driveLine_sda level s

/-- The read of the ACK phase together with the LAST_ACK it determines (40_bit_driver.md R108, R110): nothing that
`ackPhase` does in between depends on LAST_ACK. -/
def sampleAck (s : State) : State := setLastAck (ackOf (gpioRead .sda s).1) (gpioRead .sda s).2

theorem sampleAck_eq (s : State) : sampleAck s =
    { s with
      lastAck := ackOf (gpioRead .sda s).1
      trace := s.trace ++ [.read .sda (gpioRead .sda s).1]
      answers := (gpioRead .sda s).2.answers
      reads := (gpioRead .sda s).2.reads } := by
  unfold sampleAck gpioRead
  split <;> rfl

theorem setLastAck_driveLine (a : Bool) (p : Line) (level : Level) (s : State) :
    setLastAck a (driveLine p level s) = driveLine p level (setLastAck a s) := by
  simp only [driveLine_eq, setLastAck]

/-- A byte shift as a chain of operations (40_bit_driver.md R106 to R109). -/
theorem shiftByte_snd (v : Byte) (s : State) : (shiftByte v s).2 =
    driveLine .sda true (driveLine .scl false (sampleAck
      (driveLine .scl true (driveLine .sda true (sendBits (msbFirst v) s))))) := by
  simp only [shiftByte, shiftBits_eq_sendBits, ackPhase, setLastAck_driveLine, sampleAck]

/-! ### Operations -/

/-- The operations that commands are made of. Claiming and releasing the bus are one operation each: between their events
the two pins differ in function. -/
inductive Op where
  | drive (p : Line) (level : Level)
  | sampleAck
  | wait (n : Micros)
  | txResult (result : TxOutcome) (used : Count)
  | claim
  | release
  | memWrite (w : MmioPair)
  | enter (st : OrchState)
  | halt

/-- What an operation does, in the model's own functions. -/
def Op.apply : Op → State → State
  | .drive p level => driveLine p level
  | .sampleAck => Machine.sampleAck
  | .wait n => delay n
  | .txResult result used => setTxResult result used
  | .claim => claimBusBody
  | .release => releaseBusBody
  | .memWrite w => Machine.memWrite w
  | .enter st => Machine.enter st
  | .halt => fatalHalt

/-- The events an operation appends. -/
def Op.events : Op → State → List Event
  | .drive p level, s => driveEvents (halfUs s.cfg) p level
  | .sampleAck, s => [.read .sda (gpioRead .sda s).1]
  | .wait n, _ => [.delay n]
  | .txResult _ _, _ => []
  | .claim, s => claimEvents s.cfg.claimSettleUs
  | .release, _ => releaseEvents
  | .memWrite w, _ => [.mmioWrite w.addr w.value]
  | .enter st, _ => [.step st]
  | .halt, _ => [.halt]

/-- The commands that use an operation. -/
def Op.usedBy (o : Op) (m : Mnemonic) : Prop :=
  match o with
  | .drive _ _ => m ≠ .claimBus ∧ m ≠ .releaseBus
  | .sampleAck => m = .sendByte ∨ m = .writeReg ∨ m = .bringup
  | .wait _ => m = .writeReg ∨ m = .bringup
  | .txResult _ _ => m = .writeReg ∨ m = .bringup
  | .claim => m = .claimBus ∨ m = .bringup
  | .release => m = .releaseBus ∨ m = .bringup
  | .memWrite _ => m = .bringup
  | .enter _ => m = .bringup
  | .halt => m = .bringup

theorem Op.usedBy_bringup (o : Op) : o.usedBy .bringup := by
  cases o <;> simp [Op.usedBy]

theorem Op.apply_cfg (o : Op) (s : State) : (o.apply s).cfg = s.cfg := by
  cases o <;> simp [Op.apply, driveLine_eq, sampleAck_eq, delay_eq, claimBusBody_eq, releaseBusBody_eq,
    Machine.memWrite]

theorem Op.apply_faultCode (o : Op) (s : State) : (o.apply s).faultCode = s.faultCode := by
  cases o <;> simp [Op.apply, driveLine_eq, sampleAck_eq, delay_eq, claimBusBody_eq, releaseBusBody_eq,
    Machine.memWrite]

theorem Op.apply_trace (o : Op) (s : State) : (o.apply s).trace = s.trace ++ o.events s := by
  cases o <;> simp [Op.apply, Op.events, driveLine_eq, sampleAck_eq, delay_eq, claimBusBody_eq,
    releaseBusBody_eq, Machine.memWrite]

/-! ### Runs of operations -/

/-- `t` comes from `s` by operations that the commands of row `m` use. -/
def Runs (m : Mnemonic) : State → State → Prop :=
  Relation.ReflTransGen fun u v => ∃ o : Op, o.usedBy m ∧ v = o.apply u

/-- Induction over a run: what each operation of the row keeps, the run keeps. -/
theorem Runs.keeps {m : Mnemonic} {P : State → Prop} {s t : State} (h : Runs m s t)
    (hop : ∀ o : Op, o.usedBy m → ∀ u, P u → P (o.apply u)) (hs : P s) : P t := by
  induction h with
  | refl => exact hs
  | tail _ hlast ih =>
    obtain ⟨o, ho, rfl⟩ := hlast
    exact hop o ho _ ih

section Composition

variable {m : Mnemonic} {s t : State}

theorem Runs.refl (m : Mnemonic) (s : State) : Runs m s s := Relation.ReflTransGen.refl

theorem Runs.op (h : Runs m s t) (o : Op) (ho : o.usedBy m) : Runs m s (o.apply t) := h.tail ⟨o, ho, rfl⟩

theorem Runs.driveLine (h : Runs m s t) (hm : m ≠ .claimBus ∧ m ≠ .releaseBus) (p : Line) (level : Level) :
    Runs m s (driveLine p level t) := h.op (.drive p level) hm

theorem Runs.startCondition (h : Runs m s t) (hm : m ≠ .claimBus ∧ m ≠ .releaseBus) :
    Runs m s (startCondition t) :=
  (((h.driveLine hm .sda true).driveLine hm .scl true).driveLine hm .sda false).driveLine hm .scl false

theorem Runs.stopCondition (h : Runs m s t) (hm : m ≠ .claimBus ∧ m ≠ .releaseBus) :
    Runs m s (stopCondition t) :=
  ((h.driveLine hm .sda false).driveLine hm .scl true).driveLine hm .sda true

theorem Runs.shiftBit (h : Runs m s t) (hm : m ≠ .claimBus ∧ m ≠ .releaseBus) (b : Level) :
    Runs m s (shiftBit b t) :=
  ((h.driveLine hm .sda b).driveLine hm .scl true).driveLine hm .scl false

theorem Runs.sendBits (h : Runs m s t) (hm : m ≠ .claimBus ∧ m ≠ .releaseBus) (bs : List Level) :
    Runs m s (sendBits bs t) := by
  induction bs generalizing t with
  | nil => exact h
  | cons b bs ih => exact ih (h.shiftBit hm b)

/-- The rows that sample an acknowledgment drive the lines. -/
theorem drives_of_samples (hm : m = .sendByte ∨ m = .writeReg ∨ m = .bringup) :
    m ≠ .claimBus ∧ m ≠ .releaseBus := by
  rcases hm with rfl | rfl | rfl <;> exact ⟨nofun, nofun⟩

theorem Runs.shiftByte (h : Runs m s t) (hm : m = .sendByte ∨ m = .writeReg ∨ m = .bringup) (v : Byte) :
    Runs m s (shiftByte v t).2 := by
  have hd := drives_of_samples hm
  have hack := (((h.sendBits hd (msbFirst v)).driveLine hd .sda true).driveLine hd .scl true).op .sampleAck hm
  rw [shiftByte_snd]
  exact (hack.driveLine hd .scl false).driveLine hd .sda true

theorem Runs.attempt (h : Runs m s t) (hm : m = .writeReg ∨ m = .bringup) (tx : Transaction) :
    Runs m s (attempt tx t).2 := by
  have hd := drives_of_samples (.inr hm)
  have haddr := (h.startCondition hd).shiftByte (.inr hm) (addressByte tx.taddr7)
  have hreg := haddr.shiftByte (.inr hm) tx.treg
  have hval := hreg.shiftByte (.inr hm) tx.tval
  simp only [Machine.attempt]
  split
  · split
    · exact hval.stopCondition hd
    · exact hreg.stopCondition hd
  · exact haddr.stopCondition hd

theorem Runs.retryLoop (h : Runs m s t) (hm : m = .writeReg ∨ m = .bringup) (fuel : Nat) (tx : Transaction) :
    Runs m s (retryLoop fuel tx t).state := by
  induction fuel generalizing tx t with
  | zero => exact h
  | succ fuel ih =>
    have hatt := h.attempt hm { tx with k := tx.k + 1#32 }
    simp only [Machine.retryLoop]
    split
    · split
      · exact hatt
      · apply ih
        split
        · exact hatt.op (.wait _) hm
        · exact hatt
    · exact h

theorem Runs.writeRegBody (h : Runs m s t) (hm : m = .writeReg ∨ m = .bringup) (addr7 : Addr7) (reg value : Byte)
    (n : Count) : Runs m s (writeRegBody addr7 reg value n t) :=
  (h.retryLoop hm _ _).op (.txResult _ _) hm

theorem Runs.memWrites (h : Runs .bringup s t) (ws : List MmioPair) : Runs .bringup s (memWrites ws t) := by
  induction ws generalizing t with
  | nil => exact h
  | cons w ws ih => exact ih (h.op (.memWrite w) rfl)

theorem Runs.enter (h : Runs .bringup s t) (st : OrchState) : Runs .bringup s (enter st t) := h.op (.enter st) rfl

theorem Runs.delay (h : Runs .bringup s t) (n : Micros) : Runs .bringup s (delay n t) :=
  h.op (.wait n) (Op.usedBy_bringup _)

theorem Runs.releaseBusBody (h : Runs .bringup s t) : Runs .bringup s (releaseBusBody t) :=
  h.op .release (Op.usedBy_bringup _)

theorem Runs.fatalPath (h : Runs .bringup s t) : Runs .bringup s (fatalPath t) :=
  ((h.enter .releaseBus).releaseBusBody.enter .fatal).op .halt rfl

theorem Runs.finishBringup (h : Runs .bringup s t) : Runs .bringup s (finishBringup t) :=
  have hclk := ((h.enter .releaseBus).releaseBusBody.enter .enableClocks).memWrites _ |>.delay _
  (((hclk.enter .deassertResets).memWrites _).delay _).enter .done

theorem Runs.bringupFromEnable (h : Runs .bringup s t) : Runs .bringup s (bringupFromEnable t) := by
  have htx : Runs .bringup s (programEnable t) := (h.enter .programEnable).writeRegBody (.inr rfl) _ _ _ _
  simp only [Machine.bringupFromEnable]
  split
  · exact htx.fatalPath
  · exact (htx.delay _).finishBringup

theorem Runs.bringupBody (h : Runs .bringup s t) : Runs .bringup s (bringupBody t) := by
  have hclaim := (h.enter .claimBus).op .claim (Op.usedBy_bringup _)
  have htx : Runs .bringup s (programVoltage (claimBusBody (Machine.enter .claimBus t))) :=
    (hclaim.enter .programVoltage).writeRegBody (.inr rfl) _ _ _ _
  simp only [Machine.bringupBody]
  split
  · exact htx.fatalPath
  · exact (htx.delay _).bringupFromEnable

end Composition

theorem busBody_runs {i : Instr} (hi : isBusCommand i) (s : State) : Runs i.mnemonic s (busBody i s) := by
  have h := Runs.refl i.mnemonic s
  cases i with
  | driveSda level => exact h.driveLine ⟨nofun, nofun⟩ .sda level
  | driveScl level => exact h.driveLine ⟨nofun, nofun⟩ .scl level
  | start => exact h.startCondition ⟨nofun, nofun⟩
  | stop => exact h.stopCondition ⟨nofun, nofun⟩
  | sendByte v => exact h.shiftByte (.inl rfl) v
  | writeReg a r v n => exact h.writeRegBody (.inl rfl) a r v n
  | claimBus | releaseBus | bringup => simp [isBusCommand, Instr.mnemonic] at hi

/-- A command that gives a next state has run operations of its row, or has raised a fault and done nothing else. -/
theorem exec_runs {i : Instr} {s t : State} (h : exec i s = .next t) :
    Runs i.mnemonic s t ∨ ∃ code, code ≠ .none ∧ t = raiseFault code s := by
  rcases exec_cases i s with ⟨hi, -, he⟩ | ⟨-, -, he⟩ | ⟨rfl, he⟩ | ⟨rfl, he⟩ | ⟨rfl, -, he⟩ | ⟨-, -, he⟩ <;>
    obtain rfl := Host.Outcome.next.inj (he.symm.trans h)
  · exact .inl (busBody_runs hi s)
  · exact .inr ⟨.notClaimed, nofun, rfl⟩
  · exact .inl ((Runs.refl _ s).op .claim (.inl rfl))
  · exact .inl ((Runs.refl _ s).op .release (.inl rfl))
  · exact .inl (Runs.refl _ s).bringupBody
  · exact .inr ⟨.reentry, nofun, rfl⟩

/-! ### What a command and a step keep -/

/-- What the operations of its row and raising a fault keep, a command keeps. -/
theorem exec_keeps {P : State → Prop} {i : Instr} {s t : State} (h : exec i s = .next t)
    (hfault : ∀ code u, P u → P (raiseFault code u))
    (hop : ∀ o : Op, o.usedBy i.mnemonic → ∀ u, P u → P (o.apply u)) (hs : P s) : P t := by
  rcases exec_runs h with hruns | ⟨code, -, rfl⟩
  · exact hruns.keeps hop hs
  · exact hfault code s hs

/-- A field that the operations of its row and raising a fault leave alone, a command leaves alone. -/
theorem exec_keeps_field {α : Type} (f : State → α) {i : Instr} {s t : State} (h : exec i s = .next t)
    (hfault : ∀ code u, f (raiseFault code u) = f u)
    (hop : ∀ o : Op, o.usedBy i.mnemonic → ∀ u, f (o.apply u) = f u) : f t = f s :=
  exec_keeps (P := fun u => f u = f s) h (fun code u hu => (hfault code u).trans hu)
    (fun o ho u hu => (hop o ho u).trans hu) rfl

/-- The events a command appends are events of operations of its row. -/
theorem exec_appends {P : Event → Prop} {i : Instr} {s t : State} (h : exec i s = .next t)
    (hop : ∀ o : Op, o.usedBy i.mnemonic → ∀ u, ∀ e ∈ o.events u, P e) :
    ∃ es, t.trace = s.trace ++ es ∧ ∀ e ∈ es, P e := by
  refine exec_keeps (P := fun u => ∃ es, u.trace = s.trace ++ es ∧ ∀ e ∈ es, P e) h (fun _ _ hu => hu)
    (fun o ho u hu => ?_) ⟨[], by simp⟩
  obtain ⟨es, htrace, hes⟩ := hu
  exact ⟨es ++ o.events u, by rw [o.apply_trace, htrace, List.append_assoc],
    fun e he => (List.mem_append.mp he).elim (hes e) (hop o ho u e)⟩

/-- What every operation, raising a fault and taking a word from the port keep, a step keeps. -/
theorem step_keeps {P : State → Prop} {s t : State} (h : step s = .next t)
    (hport : ∀ u port, P u → P { u with port := port }) (hfault : ∀ code u, P u → P (raiseFault code u))
    (hop : ∀ (o : Op) u, P u → P (o.apply u)) (hs : P s) : P t := by
  obtain ⟨-, -, ⟨-, rfl⟩ | ⟨c, rest, -, ⟨why, -, rfl⟩ | ⟨i, -, hexec⟩⟩⟩ := step_cases h
  · exact hs
  · exact hfault _ _ (hport s rest hs)
  · exact exec_keeps hexec hfault (fun o _ => hop o) (hport s rest hs)

end Sys2Proof.Machine
end

section
/-! PROOFS. What commands and steps keep (10_state.md), operation by operation: FAULT and HALTED, STATE and the control
registers, the result registers, the pin functions, the trace, the discipline of the two lines, and what the trace tells of
the state. -/

namespace Sys2Proof.Machine

/-! ### The discipline of the two lines (10_state.md R24, R25) -/

/-- `DriveLine` leaves a pin in GPIO function released or driven low, whatever it was before. -/
theorem driven_disciplined (v : Pin) (level : Level) (hv : (v.driven level).func = .gpio) :
    (v.driven level).contribution = .released ∨ (v.driven level).contribution = .low := by
  cases level
  · exact .inr ((contribution_eq_low _).mpr ⟨hv, rfl, rfl⟩)
  · exact .inl ((contribution_eq_released _).mpr ⟨hv, rfl⟩)

theorem driven_func (v : Pin) (level : Level) : (v.driven level).func = v.func := by
  cases level <;> rfl

theorem Op.apply_busDisciplined (o : Op) (s : State) (hs : BusDisciplined s) : BusDisciplined (o.apply s) := by
  obtain ⟨hfunc, hscl, hsda⟩ := hs
  cases o with
  | drive p level =>
    cases p with
    | scl =>
      rw [Op.apply, driveLine_scl]
      exact ⟨(driven_func _ _).trans hfunc, driven_disciplined s.scl level, hsda⟩
    | sda =>
      rw [Op.apply, driveLine_sda]
      exact ⟨hfunc.trans (driven_func _ _).symm, hscl, driven_disciplined s.sda level⟩
  | sampleAck =>
    rw [Op.apply, sampleAck_eq]
    exact ⟨hfunc, hscl, hsda⟩
  | claim =>
    rw [Op.apply, claimBusBody_eq]
    exact ⟨rfl, fun _ => .inl rfl, fun _ => .inl rfl⟩
  | release =>
    rw [Op.apply, releaseBusBody_eq]
    exact ⟨rfl, nofun, nofun⟩
  | wait | txResult | memWrite | enter | halt => exact ⟨hfunc, hscl, hsda⟩

/-- Settles O48: every operation keeps the discipline. -/
theorem stepKeepsBusDiscipline : Obligations.StepKeepsBusDiscipline :=
  fun _ _ hs h => step_keeps h (fun _ _ hu => hu) (fun _ _ hu => hu) Op.apply_busDisciplined hs

/-! ### What the trace tells of the state (10_state.md R23, R33, R40, R41) -/

theorem replayPins_driveEvents (h : Micros) (p : Line) (level : Level) (v : Pin × Pin) :
    replayPins v (driveEvents h p level)
      = (if p = .scl then v.1.driven level else v.1, if p = .sda then v.2.driven level else v.2) := by
  cases p
  · exact replayPins_drive_scl h level v
  · exact replayPins_drive_sda h level v

/-- The events of an operation act on the replayed pins as the operation acts on the pins. -/
theorem Op.replayPins_events (o : Op) (s : State) :
    replayPins (s.scl, s.sda) (o.events s) = ((o.apply s).scl, (o.apply s).sda) := by
  cases o with
  | drive p level => rw [Op.events, Op.apply, driveLine_eq, replayPins_driveEvents]
  | sampleAck => rw [Op.apply, sampleAck_eq]; rfl
  | claim => rw [Op.apply, claimBusBody_eq]; rfl
  | release => rw [Op.apply, releaseBusBody_eq]; rfl
  | wait | txResult | memWrite | enter | halt => rfl

/-- STATE is the last marker among the events of an operation, or as before. -/
theorem Op.apply_orch (o : Op) (s : State) :
    (o.apply s).orch = (markers (o.events s)).getLast?.getD s.orch := by
  cases o with
  | drive p level => rw [Op.apply, driveLine_eq]; cases level <;> rfl
  | sampleAck => rw [Op.apply, sampleAck_eq]; rfl
  | wait | txResult | claim | release | memWrite | enter | halt => rfl

/-- LAST_ACK is the acknowledgment of the last sample among the events of an operation, or as before. -/
theorem Op.apply_lastAck (o : Op) (s : State) :
    (o.apply s).lastAck = ((samples (o.events s)).getLast?.map ackOf).getD s.lastAck := by
  cases o with
  | drive p level => rw [Op.apply, driveLine_eq]; cases level <;> rfl
  | sampleAck => rw [Op.apply, sampleAck_eq]; rfl
  | wait | txResult | claim | release | memWrite | enter | halt => rfl

/-- The halt is an event of the operation that sets HALTED, and of no other. -/
theorem Op.apply_halted (o : Op) (s : State) :
    (o.apply s).halted = true ↔ s.halted = true ∨ Event.halt ∈ o.events s := by
  cases o with
  | drive p level => rw [Op.apply, driveLine_eq]; cases level <;> simp [Op.events, driveEvents]
  | sampleAck => rw [Op.apply, sampleAck_eq]; simp [Op.events]
  | claim => rw [Op.apply, claimBusBody_eq]; simp [Op.events, claimEvents]
  | release => rw [Op.apply, releaseBusBody_eq]; simp [Op.events, releaseEvents]
  | wait | txResult | memWrite | enter | halt =>
    simp [Op.apply, Op.events, delay_eq, Machine.memWrite]

theorem Op.apply_traceFaithful (o : Op) (s : State) (hs : TraceFaithful s) : TraceFaithful (o.apply s) := by
  obtain ⟨hpins, horch, hhalt, hack⟩ := hs
  refine ⟨?_, ?_, ?_, ?_⟩ <;> rw [o.apply_trace]
  · rw [replayPins_append, hpins, o.replayPins_events]
  · rw [markers_append, List.getLast?_append, Option.getD_or, horch, o.apply_orch]
  · rw [List.mem_append, hhalt, o.apply_halted]
  · rw [samples_append, List.getLast?_append, Option.map_or, Option.getD_or, hack, o.apply_lastAck]

/-- Settles O50: every operation keeps the trace faithful. -/
theorem stepKeepsTraceFaithful : Obligations.StepKeepsTraceFaithful :=
  fun _ _ hs h => step_keeps h (fun _ _ hu => hu) (fun _ _ hu => hu) Op.apply_traceFaithful hs

/-! ### FAULT and HALTED (10_state.md R37) -/

theorem Runs.faultCode {m : Mnemonic} {s t : State} (h : Runs m s t) : t.faultCode = s.faultCode :=
  h.keeps (P := fun u => u.faultCode = s.faultCode) (fun o _ u hu => (o.apply_faultCode u).trans hu) rfl

/-- Settles O16: a fault is raised as a code other than none, no operation clears HALTED, and only a running block
steps. -/
theorem faultAndHaltAreSticky : Obligations.FaultAndHaltAreSticky := by
  refine ⟨fun i s t h => ⟨fun hfault => ?_, ?_⟩, fun s t h => ?_, fun s => ⟨rfl, rfl⟩⟩
  · rcases exec_runs h with hruns | ⟨code, hcode, rfl⟩
    · rwa [hruns.faultCode]
    · exact hcode
  · exact exec_keeps (P := fun u => u.halted = true) h (fun _ _ hu => hu)
      fun o _ u hu => (o.apply_halted u).mpr (.inl hu)
  · obtain ⟨hhalted, hfault, -⟩ := step_cases h
    exact ⟨hfault, hhalted⟩

/-! ### STATE, step markers, control writes and the halt (10_state.md R34, R41; 42_orchestrator.md R171) -/

/-- The event neither marks a step, nor writes a control register, nor halts. -/
def Event.isBusEvent (e : Event) : Prop := e.marker? = none ∧ e.mmio? = none ∧ e ≠ .halt

theorem Op.events_isBusEvent {o : Op} {m : Mnemonic} (ho : o.usedBy m) (hm : m ≠ .bringup) (s : State) :
    ∀ e ∈ o.events s, e.isBusEvent := by
  cases o with
  | drive p level => cases level <;> simp [Op.events, driveEvents, Event.isBusEvent, Event.marker?, Event.mmio?]
  | sampleAck | wait | txResult | claim | release =>
    simp [Op.events, claimEvents, releaseEvents, Event.isBusEvent, Event.marker?, Event.mmio?]
  | memWrite | enter | halt => exact absurd ho hm

/-- Bus events alone hold no marker, no control write and no halt. -/
theorem observers_of_isBusEvent {es : List Event} (hes : ∀ e ∈ es, e.isBusEvent) :
    markers es = [] ∧ mmioWrites es = [] ∧ Event.halt ∉ es :=
  ⟨List.filterMap_eq_nil_iff.mpr fun e he => have ⟨hmarker, _⟩ := hes e he; hmarker,
    List.filterMap_eq_nil_iff.mpr fun e he => have ⟨_, hmmio, _⟩ := hes e he; hmmio,
    fun hhalt => have ⟨_, _, hne⟩ := hes _ hhalt; hne rfl⟩

theorem mnemonic_eq_bringup {i : Instr} : i.mnemonic = .bringup ↔ i = .bringup := by
  cases i <;> simp [Instr.mnemonic]

/-- Settles O44: the operations of the other rows append bus events only, and what they append tells STATE and
HALTED. -/
theorem onlyBringupMovesState : Obligations.OnlyBringupMovesState := by
  intro i s t hi h
  have hm : i.mnemonic ≠ .bringup := fun hm => hi (mnemonic_eq_bringup.mp hm)
  refine ⟨?_, ?_, ?_⟩
  · refine exec_keeps_field State.orch h (fun _ _ => rfl) fun o ho u => ?_
    obtain ⟨hmarkers, -, -⟩ := observers_of_isBusEvent (Op.events_isBusEvent ho hm u)
    rw [o.apply_orch, hmarkers]
    rfl
  · refine exec_keeps_field State.halted h (fun _ _ => rfl) fun o ho u => Bool.eq_iff_iff.mpr ?_
    obtain ⟨-, -, hhalt⟩ := observers_of_isBusEvent (Op.events_isBusEvent ho hm u)
    rw [o.apply_halted]
    exact or_iff_left hhalt
  · obtain ⟨es, htrace, hes⟩ := exec_appends h fun o ho u => Op.events_isBusEvent ho hm u
    exact ⟨es, htrace, observers_of_isBusEvent hes⟩

/-! ### The result registers (10_state.md R33, R35) -/

theorem Op.samples_events {o : Op} (ho : o ≠ .sampleAck) (s : State) : samples (o.events s) = [] := by
  cases o with
  | drive p level => cases level <;> rfl
  | sampleAck => exact absurd rfl ho
  | wait | txResult | claim | release | memWrite | enter | halt => rfl

theorem Op.apply_txRegisters (o : Op) (s : State) (ho : ∀ result used, o ≠ .txResult result used) :
    (o.apply s).outcome = s.outcome ∧ (o.apply s).attemptsUsed = s.attemptsUsed := by
  cases o with
  | drive p level => rw [Op.apply, driveLine_eq]; exact ⟨rfl, rfl⟩
  | sampleAck => rw [Op.apply, sampleAck_eq]; exact ⟨rfl, rfl⟩
  | txResult result used => exact absurd rfl (ho result used)
  | wait | claim | release | memWrite | enter | halt => exact ⟨rfl, rfl⟩

theorem exec_lastAck {i : Instr} {s t : State} (h : exec i s = .next t)
    (hi : ¬ Op.sampleAck.usedBy i.mnemonic) : t.lastAck = s.lastAck := by
  refine exec_keeps_field State.lastAck h (fun _ _ => rfl) fun o ho u => ?_
  have hne : o ≠ .sampleAck := by
    rintro rfl
    exact hi ho
  rw [o.apply_lastAck, Op.samples_events hne]
  rfl

theorem exec_txRegisters {i : Instr} {s t : State} (h : exec i s = .next t)
    (hi : ¬ (i.mnemonic = .writeReg ∨ i.mnemonic = .bringup)) :
    t.outcome = s.outcome ∧ t.attemptsUsed = s.attemptsUsed := by
  have hop : ∀ o : Op, o.usedBy i.mnemonic → ∀ u,
      (o.apply u).outcome = u.outcome ∧ (o.apply u).attemptsUsed = u.attemptsUsed := by
    refine fun o ho u => o.apply_txRegisters u ?_
    rintro result used rfl
    exact hi ho
  exact ⟨exec_keeps_field State.outcome h (fun _ _ => rfl) fun o ho u => (hop o ho u).1,
    exec_keeps_field State.attemptsUsed h (fun _ _ => rfl) fun o ho u => (hop o ho u).2⟩

theorem writeRegBody_outcome (addr7 : Addr7) (reg value : Byte) (n : Count) (s : State) :
    (writeRegBody addr7 reg value n s).outcome ≠ .none := by
  rcases writeRegBody_cases ⟨addr7, reg, value⟩ n s with ⟨fs, -, -, h⟩ | ⟨fs, -, -, h⟩ <;>
    rw [h, setTxResult_outcome] <;> nofun

theorem bringupBody_outcome (s : State) : (bringupBody s).outcome ≠ .none := by
  rcases bringupBody_cases s with ⟨vs, hv, hu⟩ | ⟨vs, es, hv, he, hu⟩ | ⟨vs, es, hv, he, hu⟩
  · rw [bringupBody_voltageFails s vs hv hu]; nofun
  · rw [bringupBody_enableFails s vs es hv he hu]; nofun
  · rw [bringupBody_succeeds s vs es hv he hu]; nofun

theorem busBody_outcome {i : Instr} (hi : i.mnemonic = .writeReg ∨ i.mnemonic = .bringup) (hbus : isBusCommand i)
    (s : State) : (busBody i s).outcome ≠ .none := by
  cases i with
  | writeReg a r v n => exact writeRegBody_outcome a r v n s
  | bringup => simp [isBusCommand, Instr.mnemonic] at hbus
  | driveSda | driveScl | start | stop | sendByte | claimBus | releaseBus => simp [Instr.mnemonic] at hi

/-- WRITE_REG or BRINGUP without a fault ends with a transaction's result (41_transaction.md R130). -/
theorem exec_outcome {i : Instr} {s t : State} (h : exec i s = .next t)
    (hi : i.mnemonic = .writeReg ∨ i.mnemonic = .bringup) (ht : t.faultCode = .none) : t.outcome ≠ .none := by
  rcases exec_cases i s with ⟨hbus, -, he⟩ | ⟨-, -, he⟩ | ⟨rfl, -⟩ | ⟨rfl, -⟩ | ⟨rfl, -, he⟩ | ⟨-, -, he⟩
  · exact Host.Outcome.next.inj (he.symm.trans h) ▸ busBody_outcome hi hbus s
  · cases Host.Outcome.next.inj (he.symm.trans h) ▸ ht
  · simp [Instr.mnemonic] at hi
  · simp [Instr.mnemonic] at hi
  · exact Host.Outcome.next.inj (he.symm.trans h) ▸ bringupBody_outcome s
  · cases Host.Outcome.next.inj (he.symm.trans h) ▸ ht

/-- Settles O45: each register by the operations that write it, and OUTCOME by how a transaction ends. -/
theorem resultRegisterWriters : Obligations.ResultRegisterWriters := by
  intro i s t h
  refine ⟨fun hne => ?_, fun hne => ?_, fun hi hsame hnone => ?_⟩
  · by_contra hi
    exact hne (exec_lastAck h hi)
  · by_contra hi
    obtain ⟨hout, hused⟩ := exec_txRegisters h hi
    exact hne.elim (· hout) (· hused)
  · exact exec_outcome h hi (hsame.trans hnone)

/-! ### The pin functions (10_state.md R23, R24) -/

theorem Op.apply_funcs {o : Op} (ho : o ≠ .claim ∧ o ≠ .release) (s : State) :
    (o.apply s).scl.func = s.scl.func ∧ (o.apply s).sda.func = s.sda.func := by
  obtain ⟨hclaim, hrelease⟩ := ho
  cases o with
  | drive p level => cases p <;> cases level <;> exact ⟨rfl, rfl⟩
  | sampleAck => rw [Op.apply, sampleAck_eq]; exact ⟨rfl, rfl⟩
  | claim => exact absurd rfl hclaim
  | release => exact absurd rfl hrelease
  | wait | txResult | memWrite | enter | halt => exact ⟨rfl, rfl⟩

theorem Op.setFunc_notMem_events {o : Op} (ho : o ≠ .claim ∧ o ≠ .release) (s : State) (p : Line) (f : PinFunc) :
    Event.setFunc p f ∉ o.events s := by
  obtain ⟨hclaim, hrelease⟩ := ho
  cases o with
  | drive q level => cases level <;> simp [Op.events, driveEvents]
  | claim => exact absurd rfl hclaim
  | release => exact absurd rfl hrelease
  | sampleAck | wait | txResult | memWrite | enter | halt => simp [Op.events]

/-- Settles O46: only claiming and releasing the bus call `GpioSetFunc`. -/
theorem onlyClaimAndReleaseSetFunctions : Obligations.OnlyClaimAndReleaseSetFunctions := by
  intro i s t hi h
  simp only [List.mem_cons, List.not_mem_nil, or_false, not_or] at hi
  obtain ⟨hclaim, hrelease, hbringup⟩ := hi
  have hop : ∀ o : Op, o.usedBy i.mnemonic → o ≠ .claim ∧ o ≠ .release := by
    intro o ho
    constructor <;> rintro rfl
    · exact ho.elim hclaim hbringup
    · exact ho.elim hrelease hbringup
  have hscl : t.scl.func = s.scl.func := exec_keeps_field (fun u => u.scl.func) h (fun _ _ => rfl)
    fun o ho u => (Op.apply_funcs (hop o ho) u).1
  have hsda : t.sda.func = s.sda.func := exec_keeps_field (fun u => u.sda.func) h (fun _ _ => rfl)
    fun o ho u => (Op.apply_funcs (hop o ho) u).2
  refine ⟨hscl, hsda, by rw [State.claimed, State.claimed, hscl, hsda], ?_⟩
  obtain ⟨es, htrace, hes⟩ := exec_appends (P := fun e => ∀ p f, e ≠ .setFunc p f) h fun o ho u e he p f heq =>
    Op.setFunc_notMem_events (hop o ho) u p f (heq ▸ he)
  exact ⟨es, htrace, fun p f he => hes _ he p f rfl⟩

/-! ### The trace and the configuration (10_state.md R40; 00_scope.md R8) -/

/-- Settles O47: every operation appends to the trace. -/
theorem stepExtendsTrace : Obligations.StepExtendsTrace := by
  intro s t h
  refine step_keeps (P := fun u => u.cfg = s.cfg ∧ s.trace <+: u.trace) h (fun _ _ hu => hu) (fun _ _ hu => hu)
    (fun o u hu => ?_) ⟨rfl, List.prefix_rfl⟩
  obtain ⟨hcfg, htrace⟩ := hu
  rw [o.apply_cfg, o.apply_trace]
  exact ⟨hcfg, htrace.trans (List.prefix_append _ _)⟩

end Sys2Proof.Machine
end

section
/-! PROOFS. Reset values, the status registers, reads and line levels (10_state.md R25 to R27, R36, R43). -/

namespace Sys2Proof.Machine

/-! ### Reset values (10_state.md R43) -/

/-- Every field of STATUS is 0 at reset, whatever the configuration. -/
theorem statusWord_resetWith (p : Params) : (State.resetWith p).statusWord = 0#32 :=
  calc (State.resetWith p).statusWord
      = 0#15 ++ BitVec.ofBool false ++ FaultCode.none.code ++ BitVec.ofBool false ++ OrchState.idle.code
          ++ TxOutcome.none.code ++ BitVec.ofBool false := rfl
    _ = 0#32 := by decide

/-- Settles O52: the three resets differ only in the model's own fields. -/
theorem resetValues : Obligations.ResetValues := by
  rintro s (rfl | ⟨p, rfl⟩ | ⟨u, rfl⟩) <;> refine ⟨rfl, rfl, rfl, rfl, rfl, rfl, rfl, rfl, rfl, ?_⟩
  · exact statusWord_resetWith Config.params
  · exact statusWord_resetWith p
  · exact statusWord_resetWith u.cfg

/-! ### The status registers (10_state.md R35, R36) -/

section StatusFields

/-! A field is read off by dropping the fields below it, one rewrite each, and then those above it. -/

variable (s : State)

theorem statusWord_lastAck : s.statusWord.getLsbD 0 = s.lastAck := by
  simp only [State.statusWord, BitVec.getLsbD_append]
  simp

theorem statusWord_claimed : s.statusWord.getLsbD 7 = s.claimed := by
  simp only [State.statusWord, BitVec.getLsbD_append]
  simp

theorem statusWord_halted : s.statusWord.getLsbD 16 = s.halted := by
  simp only [State.statusWord, BitVec.getLsbD_append]
  simp

theorem statusWord_outcome : s.statusWord.extractLsb' 1 2 = s.outcome.code := by
  rw [State.statusWord, BitVec.extractLsb'_append_eq_of_le (by decide)]
  rw [BitVec.extractLsb'_append_eq_of_add_le (by decide), BitVec.extractLsb'_eq_self]

theorem statusWord_orch : s.statusWord.extractLsb' 3 4 = s.orch.code := by
  rw [State.statusWord]
  iterate 2 rw [BitVec.extractLsb'_append_eq_of_le (by decide)]
  rw [BitVec.extractLsb'_append_eq_of_add_le (by decide), BitVec.extractLsb'_eq_self]

theorem statusWord_faultCode : s.statusWord.extractLsb' 8 8 = s.faultCode.code := by
  rw [State.statusWord]
  iterate 4 rw [BitVec.extractLsb'_append_eq_of_le (by decide)]
  rw [BitVec.extractLsb'_append_eq_of_add_le (by decide), BitVec.extractLsb'_eq_self]

theorem statusWord_reserved : s.statusWord.extractLsb' 17 15 = 0#15 := by
  rw [State.statusWord]
  iterate 6 rw [BitVec.extractLsb'_append_eq_of_le (by decide)]
  rfl

end StatusFields

theorem readStatus_status (s : State) : readStatus s 0x0 = s.statusWord := rfl

theorem readStatus_attemptsUsed (s : State) : readStatus s 0x4 = s.attemptsUsed := rfl

theorem readStatus_other (s : State) {offset : Nat} (h0 : offset ≠ 0x0) (h4 : offset ≠ 0x4) :
    readStatus s offset = 0#32 := by
  simp [readStatus, h0, h4]

theorem readStatus_resetWith (p : Params) (offset : Nat) : readStatus (State.resetWith p) offset = 0#32 := by
  by_cases h0 : offset = 0x0
  · rw [h0]; exact statusWord_resetWith p
  by_cases h4 : offset = 0x4
  · rw [h4]; rfl
  exact readStatus_other _ h0 h4

/-- Settles O53, field by field. -/
theorem statusLayout : Obligations.StatusLayout := by
  intro s
  rw [readStatus_status, statusWord_claimed, claimed_iff]
  refine ⟨statusWord_lastAck s, ?_, ?_, Iff.rfl, ?_, statusWord_halted s, statusWord_reserved s,
    readStatus_attemptsUsed s, fun _ => readStatus_other s, readStatus_resetWith⟩
  · rw [statusWord_outcome]; rfl
  · rw [statusWord_orch]; rfl
  · rw [statusWord_faultCode]; rfl

/-! ### Reads and line levels (10_state.md R25 to R27) -/

theorem gpioRead_low {p : Line} {s : State} (h : (s.pin p).contribution = .low) :
    gpioRead p s = (false, { s with trace := s.trace ++ [.read p false] }) := by
  simp [gpioRead, h, emit]

/-- The next answer is the queue's first, and the free value of the number of draws where the queue is empty. -/
theorem answerAt_zero (s : State) : s.answerAt 0 = s.answers.head?.getD (Config.busOracle s.reads) := by
  cases h : s.answers <;> simp [State.answerAt, h]

/-- Settles O56: driven low a read draws nothing, else it draws the next answer. -/
theorem readRule : Obligations.ReadRule := by
  refine fun p s => ⟨gpioRead_low, fun hlow b rest hanswers => ?_, fun hlow hanswers => ?_⟩
  · rw [gpioRead_draw p s b hlow (by rw [answerAt_zero, hanswers]; rfl), hanswers]
    rfl
  · rw [gpioRead_draw p s (Config.busOracle s.reads) hlow (by rw [answerAt_zero, hanswers]; rfl), hanswers]
    rfl

theorem contribution_high {v : Pin} (hfunc : v.func = .gpio) (hdir : v.dir = .dir .output)
    (hlatch : v.latch = .level true) : v.contribution = .high := by
  simp [Pin.contribution, hfunc, hdir, hlatch]

theorem contribution_alt {v : Pin} (hfunc : v.func = .alt) : v.contribution = .periph := by
  simp [Pin.contribution, hfunc]

theorem contribution_noDir {v : Pin} (hfunc : v.func = .gpio) (hdir : v.dir = .unspecified) :
    v.contribution = .unknown := by
  simp [Pin.contribution, hfunc, hdir]

theorem contribution_noLatch {v : Pin} (hfunc : v.func = .gpio) (hdir : v.dir = .dir .output)
    (hlatch : v.latch = .unspecified) : v.contribution = .unknown := by
  simp [Pin.contribution, hfunc, hdir, hlatch]

/-- Settles O57: the level of each contribution. -/
theorem lineLevels : Obligations.LineLevels := by
  refine fun v pulls => ⟨fun hfunc => ?_, fun hfunc hdir => ?_, fun hfunc hdir => ?_, fun hfunc hdir hlatch => ?_,
    fun hfunc hdir hlatch => ?_, fun hfunc hdir hlatch => ?_⟩
  · rw [contribution_alt hfunc]; rfl
  · rw [contribution_noDir hfunc hdir]; rfl
  · rw [(contribution_eq_released v).mpr ⟨hfunc, hdir⟩]; rfl
  · rw [(contribution_eq_low v).mpr ⟨hfunc, hdir, hlatch⟩]; rfl
  · rw [contribution_high hfunc hdir hlatch]; rfl
  · rw [contribution_noLatch hfunc hdir hlatch]; rfl

end Sys2Proof.Machine
end

section
/-! PROOFS. What SEND_BYTE puts on SDA at its clock pulses (20_memory.md R52; 40_bit_driver.md R107, R108), one
`DriveLine` at a time: only driving SCL high makes a pulse, and driving a claimed SDA fixes its contribution. -/

namespace Sys2Proof.Machine

/-! ### One `DriveLine` -/

theorem clockPulses_drive_sda (h : Micros) (b : Level) (v : Pin × Pin) :
    clockPulses v (driveEvents h .sda b) = [] := by
  cases b <;> simp [clockPulses, driveEvents]

theorem clockPulses_drive_scl_low (h : Micros) (v : Pin × Pin) :
    clockPulses v (driveEvents h .scl false) = [] := by
  simp [clockPulses, driveEvents]

theorem clockPulses_drive_scl_high (h : Micros) (v : Pin × Pin) :
    clockPulses v (driveEvents h .scl true) = [v.2.contribution] := by
  simp [clockPulses, driveEvents, replayEvent]

theorem clockPulses_read (p : Line) (r : Level) (v : Pin × Pin) (es : List Event) :
    clockPulses v (.read p r :: es) = clockPulses v es := by
  simp [clockPulses, replayEvent]

/-! ### The bits and the ACK phase -/

theorem replayPins_bit_sda (h : Micros) (b : Level) (v : Pin × Pin) :
    (replayPins v (bitEvents h b)).2 = v.2.driven b := by
  simp only [bitEvents, replayPins_append, replayPins_drive_sda, replayPins_drive_scl]

theorem clockPulses_bit (h : Micros) (b : Level) {v : Pin × Pin} (hv : v.2.func = .gpio) :
    clockPulses v (bitEvents h b) = [bitContribution b] := by
  simp [bitEvents, clockPulses_append, replayPins_drive_sda, clockPulses_drive_sda, clockPulses_drive_scl_high,
    clockPulses_drive_scl_low, contribution_driven hv]

theorem clockPulses_ack (h : Micros) (r : Level) {v : Pin × Pin} (hv : v.2.func = .gpio) :
    clockPulses v (ackEvents h r) = [.released] := by
  simp [ackEvents, clockPulses_append, replayPins_drive_sda, clockPulses_drive_sda, clockPulses_drive_scl_high,
    clockPulses_read, clockPulses_drive_scl_low, contribution_driven hv, bitContribution]

theorem replayPins_bits_func (h : Micros) (bs : List Level) (v : Pin × Pin) :
    (replayPins v (bs.flatMap (bitEvents h))).2.func = v.2.func := by
  induction bs generalizing v with
  | nil => rfl
  | cons b bs ih => rw [List.flatMap_cons, replayPins_append, ih, replayPins_bit_sda, driven_func]

theorem clockPulses_bits (h : Micros) (bs : List Level) {v : Pin × Pin} (hv : v.2.func = .gpio) :
    clockPulses v (bs.flatMap (bitEvents h)) = bs.map bitContribution := by
  induction bs generalizing v with
  | nil => rfl
  | cons b bs ih =>
    have hb : (replayPins v (bitEvents h b)).2.func = .gpio := by rw [replayPins_bit_sda, driven_func, hv]
    rw [List.flatMap_cons, clockPulses_append, clockPulses_bit h b hv, ih hb, List.map_cons, List.singleton_append]

/-! ### SEND_BYTE -/

/-- A byte shift makes one pulse for each bit, most significant first, and one with SDA released. -/
theorem clockPulses_shift (h : Micros) (x : Byte) (r : Level) {v : Pin × Pin} (hv : v.2.func = .gpio) :
    clockPulses v (shiftEvents h x r) = (msbFirst x).map bitContribution ++ [.released] := by
  have hbits := replayPins_bits_func h (msbFirst x) v
  rw [shiftEvents, clockPulses_append, clockPulses_bits h _ hv, clockPulses_ack h r (hbits.trans hv)]

theorem shiftByte_trace (x : Byte) (s : State) :
    (shiftByte x s).2.trace = s.trace ++ shiftEvents (halfUs s.cfg) x (s.answerAt 0) := by rw [shiftByte_eq]

/-- Settles O22: the pulses of the events of a byte shift, which are all that SEND_BYTE emits. -/
theorem sendByteClockPulses : Obligations.SendByteClockPulses := by
  intro x s hs
  obtain ⟨-, hsda⟩ := (claimed_iff s).mp hs
  exact ⟨busBody (.sendByte x) s, shiftEvents (halfUs s.cfg) x (s.answerAt 0),
    exec_of_claimed (by simp [isBusCommand, Instr.mnemonic]) hs, shiftByte_trace x s,
    clockPulses_shift (v := (s.scl, s.sda)) _ x _ hsda⟩

end Sys2Proof.Machine
end

section
/-! PROOFS. The command encoding (30_encoding.md): a row's mask leaves out exactly the operands of its
command, so that a row matches exactly the words of its command. -/

namespace Sys2Proof

/-! ### Words as packed fields (R71) -/

/-- Bit `i` of a word, read from the field that lies at bit `start`. -/
theorem getLsbD_extract {c : CmdWord} {start n i : Nat} (hlo : start ≤ i) (hhi : i < start + n) :
    (c.extractLsb' start n).getLsbD (i - start) = c.getLsbD i := by
  rw [BitVec.getLsbD_extractLsb', Nat.add_sub_cancel' hlo, decide_eq_true (by omega), Bool.true_and]

/-- The bits of a word under a packed one are its fields under that one's fields: RSV1 and RSV0 are 0 there. -/
theorem and_packCmd (c : CmdWord) (att : Count) (addr7 : Addr7) (b1 b0 : Byte) (lvl : Level) (op : BitVec 4) :
    c &&& packCmd att addr7 b1 b0 lvl op
      = packCmd (fieldAtt c &&& att) (fieldAddr7 c &&& addr7) (fieldB1 c &&& b1) (fieldB0 c &&& b0)
          (fieldLvl c && lvl) (fieldOp c &&& op) := by
  apply BitVec.eq_of_getLsbD_eq
  intro i hi
  simp only [BitVec.getLsbD_and, packCmd_getLsbD, fieldAtt, fieldAddr7, fieldB1, fieldB0, fieldLvl, fieldOp]
  split_ifs with hop hlvl hrsv0 hb0 hb1 haddr7 hrsv1
  · rw [← getLsbD_extract (start := 0) (n := 4) (Nat.zero_le i) (by omega), Nat.sub_zero]
  · rw [hlvl]
  · exact Bool.and_false _
  · rw [getLsbD_extract (by omega) (by omega)]
  · rw [getLsbD_extract (by omega) (by omega)]
  · rw [getLsbD_extract (by omega) (by omega)]
  · exact Bool.and_false _
  · rw [getLsbD_extract (by omega) (by omega)]

theorem packCmd_or_packCmd (att att' : Count) (addr7 addr7' : Addr7) (b1 b1' b0 b0' : Byte) (lvl lvl' : Level)
    (op op' : BitVec 4) : packCmd att addr7 b1 b0 lvl op ||| packCmd att' addr7' b1' b0' lvl' op'
      = packCmd (att ||| att') (addr7 ||| addr7') (b1 ||| b1') (b0 ||| b0') (lvl || lvl') (op ||| op') := by
  apply BitVec.eq_of_getLsbD_eq
  intro i _
  simp only [BitVec.getLsbD_or, packCmd_getLsbD]
  split_ifs <;> rfl

/-! ### Rows and commands (R73, R74) -/

/-- The bits of a word that are operands of the row's command (R72). -/
def Mnemonic.operandBits : Mnemonic → CmdWord
  | .driveSda => packCmd 0#32 0#7 0#8 0#8 true 0#4
  | .driveScl => packCmd 0#32 0#7 0#8 0#8 true 0#4
  | .start => packCmd 0#32 0#7 0#8 0#8 false 0#4
  | .stop => packCmd 0#32 0#7 0#8 0#8 false 0#4
  | .sendByte => packCmd 0#32 0#7 0#8 (BitVec.allOnes 8) false 0#4
  | .writeReg => packCmd (BitVec.allOnes 32) (BitVec.allOnes 7) (BitVec.allOnes 8) (BitVec.allOnes 8) false 0#4
  | .claimBus => packCmd 0#32 0#7 0#8 0#8 false 0#4
  | .releaseBus => packCmd 0#32 0#7 0#8 0#8 false 0#4
  | .bringup => packCmd 0#32 0#7 0#8 0#8 false 0#4

/-- A row's mask leaves out exactly the operands, its match is the opcode, and the mask covers the match. -/
theorem row_eq : ∀ r ∈ opcodeTable, ~~~r.mask = r.mnemonic.operandBits
    ∧ r.pattern = packCmd 0#32 0#7 0#8 0#8 false r.mnemonic.opcode ∧ r.pattern &&& r.mask = r.pattern := by
  decide

/-- Every command has a row. -/
theorem exists_row (m : Mnemonic) : ∃ r ∈ opcodeTable, r.mnemonic = m := by
  cases m <;> decide

/-- Reading operands from a word and encoding them keeps the operand bits and puts the opcode and 0 elsewhere. -/
theorem encode_operandsOf (m : Mnemonic) (c : CmdWord) :
    encode (operandsOf m c) = c &&& m.operandBits ||| packCmd 0#32 0#7 0#8 0#8 false m.opcode := by
  cases m <;>
    simp [encode, operandsOf, Instr.mnemonic, Mnemonic.operandBits, and_packCmd, packCmd_or_packCmd,
      -BitVec.reduceAllOnes]

/-- The operands read from the word of a command are the command's. -/
theorem operandsOf_encode (i : Instr) : operandsOf i.mnemonic (encode i) = i := by
  cases i <;> simp [encode, operandsOf, Instr.mnemonic]

/-- Bits under a mask are as the pattern says iff putting the pattern there changes nothing. -/
theorem and_mask_eq_iff {w : Nat} {m p : BitVec w} (hp : p &&& m = p) (c : BitVec w) :
    c &&& m = p ↔ c &&& ~~~m ||| p = c := by
  constructor
  · rintro rfl
    rw [← BitVec.and_or_distrib_left]
    simp
  · intro h
    calc c &&& m = (c &&& ~~~m ||| p) &&& m := by rw [h]
      _ = p := by simp [BitVec.and_or_distrib_right, BitVec.and_assoc, hp]

/-- A row matches exactly the words of its command. -/
theorem row_matches_iff {r : OpRow} (hr : r ∈ opcodeTable) (c : CmdWord) :
    c &&& r.mask = r.pattern ↔ encode (operandsOf r.mnemonic c) = c := by
  obtain ⟨hmask, hpattern, hcovered⟩ := row_eq r hr
  rw [encode_operandsOf, ← hmask, ← hpattern, and_mask_eq_iff hcovered]

/-- Settles O1: the row of the command matches its word. -/
theorem decodeEncodeRoundTrip : Obligations.DecodeEncodeRoundTrip := by
  intro i
  obtain ⟨r, hr, hm⟩ := exists_row i.mnemonic
  have hops : operandsOf r.mnemonic (encode i) = i := by rw [hm, operandsOf_encode]
  rw [decode_of_row hr ((row_matches_iff hr _).mpr (by rw [hops])), hops]

/-- A word that decodes to a command matches that command's row, and its operands are the command's. -/
theorem operandsOf_of_decode {c : CmdWord} {i : Instr} (h : decode c = .instr i) :
    ∃ r ∈ opcodeTable, c &&& r.mask = r.pattern ∧ operandsOf r.mnemonic c = i := by
  obtain ⟨r, hr, hc, hd⟩ | ⟨-, hd⟩ := decode_cases c
  · exact ⟨r, hr, hc, Decoded.instr.inj (hd.symm.trans h)⟩
  · cases hd.symm.trans h

/-- Settles O2: the word matches the command's row. -/
theorem encodeDecodeRoundTrip : Obligations.EncodeDecodeRoundTrip := by
  intro c i h
  obtain ⟨r, hr, hc, rfl⟩ := operandsOf_of_decode h
  exact (row_matches_iff hr c).mp hc

/-- Settles O3: the rows have distinct opcodes, and a word that no row matches is rejected. -/
theorem rowsDecideDecoding : Obligations.RowsDecideDecoding := by
  refine fun c => ⟨fun r hr r' hr' => rows_disjoint c hr hr', fun r hr hc => ?_, fun hnone => ?_⟩
  · exact ⟨operandsOf r.mnemonic c, decode_of_row hr hc, operandsOf_mnemonic r.mnemonic c⟩
  · obtain ⟨r, hr, hc, -⟩ | ⟨-, hd⟩ := decode_cases c
    · exact absurd hc (hnone r hr)
    · exact ⟨⟨_, hd⟩, fun s rest hh hf hp => Machine.step_illegal hh hf hp hd⟩

/-! ### The fields as numbers (R71, R72) -/

theorem toNat_fieldAtt (c : CmdWord) : (fieldAtt c).toNat = c.toNat / 2 ^ 32 := by
  rw [fieldAtt, BitVec.extractLsb'_toNat, Nat.shiftRight_eq_div_pow]
  omega

theorem toNat_fieldAddr7 (c : CmdWord) : (fieldAddr7 c).toNat = c.toNat / 2 ^ 24 % 2 ^ 7 := by
  rw [fieldAddr7, BitVec.extractLsb'_toNat, Nat.shiftRight_eq_div_pow]

theorem toNat_fieldB1 (c : CmdWord) : (fieldB1 c).toNat = c.toNat / 2 ^ 16 % 2 ^ 8 := by
  rw [fieldB1, BitVec.extractLsb'_toNat, Nat.shiftRight_eq_div_pow]

theorem toNat_fieldB0 (c : CmdWord) : (fieldB0 c).toNat = c.toNat / 2 ^ 8 % 2 ^ 8 := by
  rw [fieldB0, BitVec.extractLsb'_toNat, Nat.shiftRight_eq_div_pow]

theorem toNat_fieldLvl (c : CmdWord) : (fieldLvl c).toNat = c.toNat / 2 ^ 4 % 2 := Nat.toNat_testBit ..

/-- Settles O4: the operands are read from the fields. -/
theorem operandsAreUnsignedFields : Obligations.OperandsAreUnsignedFields := by
  intro c i h
  obtain ⟨r, -, -, rfl⟩ := operandsOf_of_decode h
  cases r.mnemonic with
  | driveSda => exact toNat_fieldLvl c
  | driveScl => exact toNat_fieldLvl c
  | sendByte => exact toNat_fieldB0 c
  | writeReg => exact ⟨toNat_fieldAddr7 c, toNat_fieldB0 c, toNat_fieldB1 c, toNat_fieldAtt c⟩
  | start | stop | claimBus | releaseBus | bringup => exact trivial

/-! ### The assembler (R77, R78) -/

theorem map_encode_assemble {a : Asm} {p : Prop} [Decidable p] {w : CmdWord} (hwf : a.wellFormed = true ↔ p)
    (hw : p → encode a.command = w) : (assemble a).map encode = if p then some w else none := by
  by_cases hp : p
  · rw [assemble, if_pos (hwf.mpr hp), if_pos hp, Option.map_some, hw hp]
  · rw [assemble, if_neg (mt hwf.mp hp), if_neg hp, Option.map_none]

/-- The number of a word, laid out as R71 says. -/
theorem toNat_packCmd (att : Count) (addr7 : Addr7) (b1 b0 : Byte) (lvl : Level) (op : BitVec 4) :
    (packCmd att addr7 b1 b0 lvl op).toNat = att.toNat <<< 32 ||| addr7.toNat <<< 24 ||| b1.toNat <<< 16
      ||| b0.toNat <<< 8 ||| lvl.toNat <<< 4 ||| op.toNat := by
  simp only [packCmd, BitVec.toNat_append, BitVec.toNat_ofBool, Nat.shiftLeft_or_distrib, ← Nat.shiftLeft_add]
  simp

theorem packCmd_eq_ofNat (att : Count) (addr7 : Addr7) (b1 b0 : Byte) (lvl : Level) (op : BitVec 4) :
    packCmd att addr7 b1 b0 lvl op = BitVec.ofNat 64 (att.toNat <<< 32 ||| addr7.toNat <<< 24 ||| b1.toNat <<< 16
      ||| b0.toNat <<< 8 ||| lvl.toNat <<< 4 ||| op.toNat) := by
  rw [← toNat_packCmd, BitVec.ofNat_toNat, BitVec.setWidth_eq]

theorem toNat_level {l : Nat} (h : l ≤ 1) : (decide (l = 1)).toNat = l := by
  interval_cases l <;> rfl

/-- Settles O7: the word of the line's command, whose operands are its numbers because they fit. -/
theorem assemblerWords : Obligations.AssemblerWords := by
  refine ⟨fun l => ?_, fun l => ?_, fun b => ?_, fun a r v n => ?_, rfl, rfl, rfl, rfl, rfl, rfl, rfl, rfl, rfl⟩
  · refine map_encode_assemble decide_eq_true_iff fun hl => ?_
    rw [Asm.command, encode, packCmd_eq_ofNat, toNat_level hl]
    simp [Instr.mnemonic, Mnemonic.opcode]
  · refine map_encode_assemble decide_eq_true_iff fun hl => ?_
    rw [Asm.command, encode, packCmd_eq_ofNat, toNat_level hl]
    simp [Instr.mnemonic, Mnemonic.opcode]
  · refine map_encode_assemble decide_eq_true_iff fun hb => ?_
    rw [Asm.command, encode, packCmd_eq_ofNat]
    simp (disch := omega) only [BitVec.toNat_ofNat, Nat.mod_eq_of_lt]
    simp [Instr.mnemonic, Mnemonic.opcode]
  · refine map_encode_assemble (by simp [Asm.wellFormed, fitsAddr7, fitsByte, fitsCount, and_assoc]) ?_
    rintro ⟨ha, hr, hv, hn⟩
    rw [Asm.command, encode, packCmd_eq_ofNat]
    simp (disch := omega) only [BitVec.toNat_ofNat, Nat.mod_eq_of_lt]
    simp [Instr.mnemonic, Mnemonic.opcode]

theorem assembleLine_of_parseLine {line : String} {a : Asm} (h : parseLine line = some a) :
    assembleLine line = (assemble a).map encode := by
  rw [assembleLine, h, Option.bind_some]

/-- The word of a line decodes to the line's command. -/
theorem decode_of_assemble {a : Asm} {c : CmdWord} (h : (assemble a).map encode = some c) :
    decode c = .instr a.command := by
  obtain ⟨i, hi, rfl⟩ := Option.map_eq_some_iff.mp h
  obtain ⟨-, hcommand⟩ := Option.ite_none_right_eq_some.mp hi
  rw [decodeEncodeRoundTrip i, Option.some.inj hcommand]

/-- Settles O6: the lines' words decode to the lines' commands by the round trip. -/
theorem encodingExamples : Obligations.EncodingExamples := by
  have hsendb : (assemble (.sendb 0x85)).map encode = some 0x0000000000008505#64 := by decide
  have hwreg : (assemble (.wreg 0x42 0x10 0x5A 3)).map encode = some 0x00000003425A1006#64 := by decide
  have hdrive : (assemble (.sdaDrive 1)).map encode = some 0x0000000000000011#64 := by decide
  have hbringup : (assemble .bringup).map encode = some 0x0000000000000009#64 := by decide
  refine ⟨?_, ?_, ?_, ?_, decode_of_assemble hsendb, decode_of_assemble hwreg, decode_of_assemble hdrive,
    decode_of_assemble hbringup, by decide, by decide⟩
  · rw [assembleLine_of_parseLine (a := .sendb 0x85) (by decide), hsendb]
  · rw [assembleLine_of_parseLine (a := .wreg 0x42 0x10 0x5A 3) (by decide), hwreg]
  · rw [assembleLine_of_parseLine (a := .sdaDrive 1) (by decide), hdrive]
  · rw [assembleLine_of_parseLine (a := .bringup) (by decide), hbringup]

/-- Settles O8: the step of a block that accepts a command. -/
theorem stepRunsDecodedCommand : Obligations.StepRunsDecodedCommand :=
  fun _ _ _ _ => Machine.step_instr

end Sys2Proof
end

section
/-! PROOFS. The five commands of the bit-level bus driver (40_bit_driver.md): what each gives on a claimed bus,
where both pins are in GPIO function, that it only raises NOT_CLAIMED on any other (R111), and how many events it emits
(R113). -/

namespace Sys2Proof.Machine

/-! ### The check of the driver commands (R111) -/

theorem isBusCommand_driveSda (l : Level) : isBusCommand (.driveSda l) := by simp [isBusCommand, Instr.mnemonic]

theorem isBusCommand_driveScl (l : Level) : isBusCommand (.driveScl l) := by simp [isBusCommand, Instr.mnemonic]

theorem isBusCommand_start : isBusCommand .start := by simp [isBusCommand, Instr.mnemonic]

theorem isBusCommand_stop : isBusCommand .stop := by simp [isBusCommand, Instr.mnemonic]

theorem isBusCommand_sendByte (v : Byte) : isBusCommand (.sendByte v) := by simp [isBusCommand, Instr.mnemonic]

/-- On a claimed bus the command gives what its body makes of the state. -/
theorem exec_next_of_claimed {i : Instr} (hi : isBusCommand i) {s t : State} (hs : s.claimed = true)
    (ht : busBody i s = t) : exec i s = .next t := by
  rw [exec_of_claimed hi hs, ht]

theorem exec_of_unclaimed {i : Instr} (hi : isBusCommand i) {s : State} (hs : s.claimed = false) :
    exec i s = .next { s with faultCode := .notClaimed } := by
  rcases exec_cases i s with ⟨-, hc, -⟩ | ⟨-, -, h⟩ | ⟨rfl, -⟩ | ⟨rfl, -⟩ | ⟨rfl, -⟩ | ⟨rfl, -⟩
  · simp [hs] at hc
  · exact h
  all_goals simp [isBusCommand, Instr.mnemonic] at hi

/-! ### The bodies on a claimed bus -/

section Claimed

variable {s : State} (hs : s.claimed = true)
include hs

theorem startCondition_claimed : startCondition s = { s with
    scl := ⟨.gpio, .dir .output, .level false⟩
    sda := ⟨.gpio, .dir .output, .level false⟩
    trace := s.trace ++ startEvents (halfUs s.cfg) } := by
  obtain ⟨hscl, hsda⟩ := (claimed_iff s).mp hs
  simp only [startCondition_eq, hscl, hsda]

theorem stopCondition_claimed : stopCondition s = { s with
    scl := ⟨.gpio, .dir .input, s.scl.latch⟩
    sda := ⟨.gpio, .dir .input, .level false⟩
    trace := s.trace ++ stopEvents (halfUs s.cfg) } := by
  obtain ⟨hscl, hsda⟩ := (claimed_iff s).mp hs
  simp only [stopCondition_eq, hscl, hsda]

theorem shiftByte_claimed (v : Byte) : (shiftByte v s).2 = { s with
    scl := ⟨.gpio, .dir .output, .level false⟩
    sda := ⟨.gpio, .dir .input, if v = 0xFF#8 then s.sda.latch else .level false⟩
    lastAck := ackOf (s.answerAt 0)
    trace := s.trace ++ shiftEvents (halfUs s.cfg) v (s.answerAt 0)
    answers := s.answers.drop 1
    reads := s.reads + 1 } := by
  obtain ⟨hscl, hsda⟩ := (claimed_iff s).mp hs
  simp only [shiftByte_eq, Pin.afterByte, hscl, hsda]

end Claimed

theorem msbFirst_eq_bits (v : Byte) : msbFirst v =
    [v.getLsbD 7, v.getLsbD 6, v.getLsbD 5, v.getLsbD 4, v.getLsbD 3, v.getLsbD 2, v.getLsbD 1, v.getLsbD 0] := rfl

/-! ### The results of the commands (R102 to R110) -/

/-- Settles O21: a byte shift on a claimed bus, its events cut into the bit loop and the ACK phase. -/
theorem sendByteResult : Obligations.SendByteResult := by
  refine ⟨fun v s hs => exec_next_of_claimed (isBusCommand_sendByte v) hs ?_,
    fun v s => exec_of_unclaimed (isBusCommand_sendByte v)⟩
  rw [busBody, shiftByte_claimed hs, shiftEvents, msbFirst_eq_bits, ackOf, List.append_assoc]

/-- Settles O17: one `DriveLine` of SDA at each level. -/
theorem driveSdaResult : Obligations.DriveSdaResult :=
  ⟨fun s hs => exec_next_of_claimed (isBusCommand_driveSda true) hs (driveLine_sda true s),
    fun s hs => exec_next_of_claimed (isBusCommand_driveSda false) hs (driveLine_sda false s),
    fun l _ => exec_of_unclaimed (isBusCommand_driveSda l)⟩

/-- Settles O18: one `DriveLine` of SCL at each level. -/
theorem driveSclResult : Obligations.DriveSclResult :=
  ⟨fun s hs => exec_next_of_claimed (isBusCommand_driveScl true) hs (driveLine_scl true s),
    fun s hs => exec_next_of_claimed (isBusCommand_driveScl false) hs (driveLine_scl false s),
    fun l _ => exec_of_unclaimed (isBusCommand_driveScl l)⟩

/-- Settles O19: the START condition on a claimed bus. -/
theorem startResult : Obligations.StartResult :=
  ⟨fun _ hs => exec_next_of_claimed isBusCommand_start hs (startCondition_claimed hs),
    fun _ => exec_of_unclaimed isBusCommand_start⟩

/-- Settles O20: the STOP condition on a claimed bus. -/
theorem stopResult : Obligations.StopResult :=
  ⟨fun _ hs => exec_next_of_claimed isBusCommand_stop hs (stopCondition_claimed hs),
    fun _ => exec_of_unclaimed isBusCommand_stop⟩

/-- Settles O23: START leaves the bus claimed, so that STOP runs on the state it gives. -/
theorem startThenStopReleasesBus : Obligations.StartThenStopReleasesBus := by
  intro s hs
  obtain ⟨hstart, -⟩ := startResult
  obtain ⟨hstop, -⟩ := stopResult
  exact ⟨_, _, hstart s hs, hstop _ ((claimed_iff _).mpr ⟨rfl, rfl⟩), rfl, rfl⟩

/-! ### Event and wait counts (R113) -/

/-- A row of R113's table: the events `es` hold so many waits, reads and GPIO set or write events and are so many in
all, and their total wait is a half period `h` for each wait. -/
structure CountsTo (h : Micros) (es : List Event) (nDelay nRead nGpio nAll : Nat) : Prop where
  delays : es.countP Event.isDelay = nDelay
  reads : es.countP Event.isRead = nRead
  gpioSets : es.countP Event.isGpioSet = nGpio
  total : es.length = nAll
  wait : totalWait es = nDelay * h.toNat

theorem countsTo_drive_high (h : Micros) (p : Line) : CountsTo h (driveEvents h p true) 1 0 1 2 :=
  ⟨rfl, rfl, rfl, rfl, by simp [driveEvents, totalWait, Event.wait]⟩

theorem countsTo_drive_low (h : Micros) (p : Line) : CountsTo h (driveEvents h p false) 1 0 2 3 :=
  ⟨rfl, rfl, rfl, rfl, by simp [driveEvents, totalWait, Event.wait]⟩

theorem countsTo_start (h : Micros) : CountsTo h (startEvents h) 4 0 6 10 :=
  ⟨rfl, rfl, rfl, rfl, totalWait_start h⟩

theorem countsTo_stop (h : Micros) : CountsTo h (stopEvents h) 3 0 4 7 :=
  ⟨rfl, rfl, rfl, rfl, totalWait_stop h⟩

theorem countsTo_shift (h : Micros) (v : Byte) (r : Level) :
    CountsTo h (shiftEvents h v r) 28 1 (37 + zeroBits v) (66 + zeroBits v) := by
  obtain ⟨hdelays, hreads, hsets, htotal⟩ := shift_counts h v r
  exact ⟨hdelays, hreads, hsets, htotal, totalWait_shift h v r⟩

theorem driveLine_trace (p : Line) (b : Level) (s : State) :
    (driveLine p b s).trace = s.trace ++ driveEvents (halfUs s.cfg) p b := by rw [driveLine_eq]

/-- The command completes and the events it emits have the row's counts. -/
def ExecCounts (i : Instr) (s : State) (nDelay nRead nGpio nAll : Nat) : Prop :=
  ∃ (t : State) (es : List Event), exec i s = .next t ∧ t.trace = s.trace ++ es
    ∧ es.countP Event.isDelay = nDelay ∧ es.countP Event.isRead = nRead
    ∧ es.countP Event.isGpioSet = nGpio ∧ es.length = nAll
    ∧ totalWait es = nDelay * (halfUs s.cfg).toNat

theorem execCounts_of_countsTo {i : Instr} (hi : isBusCommand i) {s : State} (hs : s.claimed = true)
    {es : List Event} (hes : (busBody i s).trace = s.trace ++ es) {nDelay nRead nGpio nAll : Nat}
    (hc : CountsTo (halfUs s.cfg) es nDelay nRead nGpio nAll) : ExecCounts i s nDelay nRead nGpio nAll :=
  ⟨busBody i s, es, exec_of_claimed hi hs, hes, hc.delays, hc.reads, hc.gpioSets, hc.total, hc.wait⟩

/-- Settles O24, command by command: the counts of the events its body appends. -/
theorem driverEventCounts : Obligations.DriverEventCounts := by
  intro s hs i nDelay nRead nGpio nAll hrow
  change ExecCounts i s nDelay nRead nGpio nAll
  cases i with
  | driveSda level =>
    refine execCounts_of_countsTo (isBusCommand_driveSda level) hs (driveLine_trace .sda level s) ?_
    cases level <;> obtain ⟨rfl, rfl, rfl, rfl⟩ := hrow
    · exact countsTo_drive_low _ .sda
    · exact countsTo_drive_high _ .sda
  | driveScl level =>
    refine execCounts_of_countsTo (isBusCommand_driveScl level) hs (driveLine_trace .scl level s) ?_
    cases level <;> obtain ⟨rfl, rfl, rfl, rfl⟩ := hrow
    · exact countsTo_drive_low _ .scl
    · exact countsTo_drive_high _ .scl
  | start =>
    obtain ⟨rfl, rfl, rfl, rfl⟩ := hrow
    exact execCounts_of_countsTo isBusCommand_start hs (startCondition_trace s) (countsTo_start _)
  | stop =>
    obtain ⟨rfl, rfl, rfl, rfl⟩ := hrow
    exact execCounts_of_countsTo isBusCommand_stop hs (stopCondition_trace s) (countsTo_stop _)
  | sendByte v =>
    obtain ⟨rfl, rfl, rfl, rfl⟩ := hrow
    exact execCounts_of_countsTo (isBusCommand_sendByte v) hs (shiftByte_trace v s) (countsTo_shift _ v _)
  | writeReg addr7 reg value maxAttempts => exact hrow.elim
  | claimBus | releaseBus | bringup => exact hrow.elim

end Sys2Proof.Machine
end

section
/-! PROOFS. WRITE_REG (41_transaction.md): the address byte (R131), the state a write ends in when its budget is
exhausted or an attempt is acknowledged (R130 to R136), and what those two ends say of its waits (R139) and of its
independence from older state (R137). -/

namespace Sys2Proof.Machine

/-! ### The address byte (R131) -/

theorem addressByte_toNat (a : Addr7) : (addressByte a).toNat = 2 * a.toNat := by
  rw [addressByte, BitVec.toNat_append, Nat.shiftLeft_eq, BitVec.toNat_ofNat, Nat.zero_mod, Nat.or_zero, pow_one,
    Nat.mul_comm]

/-- The shift into 8 bits loses nothing: twice a 7-bit number is below 256. -/
theorem addressByte_eq_shiftLeft (a : Addr7) : addressByte a = a.setWidth 8 <<< 1 := by
  have ha := a.isLt
  apply BitVec.eq_of_toNat_eq
  rw [addressByte_toNat, BitVec.toNat_shiftLeft, BitVec.toNat_setWidth, Nat.shiftLeft_eq]
  omega

theorem addressByte_writeBit (a : Addr7) : (addressByte a).getLsbD 0 = false := by
  rw [addressByte_eq_shiftLeft, BitVec.getLsbD_shiftLeft]
  simp

/-- Settles O27: the layout from the value of the byte, and the rule's three examples. -/
theorem addressByteLayout : Obligations.AddressByteLayout :=
  ⟨fun a => ⟨addressByte_eq_shiftLeft a, addressByte_writeBit a, addressByte_toNat a⟩, rfl, rfl, rfl⟩

/-! ### The two ends of a register write on a claimed bus (R130 to R136) -/

theorem isBusCommand_writeReg (addr7 : Addr7) (reg value : Byte) (n : Count) :
    isBusCommand (.writeReg addr7 reg value n) := by simp [isBusCommand, Instr.mnemonic]

/-- Both pins after one attempt or more: released, the latch 0 (R132). -/
def Pin.idle : Pin := ⟨.gpio, .dir .input, .level false⟩

section Ends

variable (w : RegWrite) (n : Count) (fs : List NackPoint) {s : State} (hs : s.claimed = true)
include hs

theorem afterAttempts_claimed (ack : Bool) (es : List Event) (draws : Nat) : s.afterAttempts ack es draws =
    { s with
      scl := Pin.idle
      sda := Pin.idle
      lastAck := ack
      trace := s.trace ++ es
      answers := s.answers.drop draws
      reads := s.reads + draws } := by
  obtain ⟨hscl, hsda⟩ := (claimed_iff s).mp hs
  simp only [State.afterAttempts, hscl, hsda, Pin.idle]

/-- Every attempt of the budget fails. A budget of 0 has no attempt, and nothing moves the pins or LAST_ACK (R134,
R136). -/
theorem exec_writeReg_exhausted (hn : fs.length = n.toNat)
    (hu : s.upcoming (nackSamples fs).length = nackSamples fs) :
    exec (.writeReg w.addr7 w.reg w.value n) s = .next { s with
      scl := if fs = [] then s.scl else Pin.idle
      sda := if fs = [] then s.sda else Pin.idle
      lastAck := if fs = [] then s.lastAck else false
      outcome := .failure
      attemptsUsed := n
      trace := s.trace ++ exhaustedEvents s.cfg w fs
      answers := s.answers.drop (nackSamples fs).length
      reads := s.reads + (nackSamples fs).length } := by
  refine exec_next_of_claimed (isBusCommand_writeReg ..) hs ((writeRegBody_exhausted w n fs s hn hu).trans ?_)
  by_cases hfs : fs = []
  · simp [hfs, setTxResult, exhaustedEvents_nil, nackSamples]
  · simp only [hfs, if_false, afterAttempts_claimed hs, setTxResult]

/-- The attempt after the failed ones `fs` is acknowledged, and the write ends there (R133). -/
theorem exec_writeReg_succeeded (hn : fs.length < n.toNat)
    (hu : s.upcoming (nackSamples fs ++ ackedSamples).length = nackSamples fs ++ ackedSamples) :
    exec (.writeReg w.addr7 w.reg w.value n) s = .next { s with
      scl := Pin.idle
      sda := Pin.idle
      lastAck := true
      outcome := .success
      attemptsUsed := BitVec.ofNat 32 (fs.length + 1)
      trace := s.trace ++ succeededEvents s.cfg w fs
      answers := s.answers.drop (nackSamples fs ++ ackedSamples).length
      reads := s.reads + (nackSamples fs ++ ackedSamples).length } := by
  refine exec_next_of_claimed (isBusCommand_writeReg ..) hs ((writeRegBody_succeeded w n fs s hn hu).trans ?_)
  rw [afterAttempts_claimed hs, setTxResult]

end Ends

/-! ### The results of WRITE_REG -/

/-- ATTEMPTS_USED counts every attempt of a budget without wrapping (10_state.md R35). -/
theorem toNat_attempts {k : Nat} {n : Count} (hk : k < n.toNat) : (BitVec.ofNat 32 (k + 1)).toNat = k + 1 := by
  rw [BitVec.toNat_ofNat, Nat.mod_eq_of_lt (by omega)]

/-- Settles O28: an exhausted budget of at least one attempt. -/
theorem writeRegExhausted : Obligations.WriteRegExhausted := by
  intro w n fs s hs hn hne hu
  simpa only [hne, if_false, Pin.idle] using exec_writeReg_exhausted w n fs hs hn hu

/-- Settles O29: an acknowledged attempt within the budget. -/
theorem writeRegSucceeds : Obligations.WriteRegSucceeds :=
  fun w n fs _ hs hn hu => exec_writeReg_succeeded w n fs hs hn hu

/-- Settles O30: an exhausted budget without attempts. -/
theorem writeRegZeroBudget : Obligations.WriteRegZeroBudget := by
  intro w s hs
  simpa [exhaustedEvents_nil, nackSamples] using exec_writeReg_exhausted w 0#32 [] hs rfl rfl

/-- Settles O31: the coming answers exhaust the budget or bring an acknowledged attempt within it. -/
theorem writeRegAlwaysCompletes : Obligations.WriteRegAlwaysCompletes := by
  intro w n s hs
  obtain ⟨hscl, hsda⟩ := (claimed_iff s).mp hs
  rcases spend_budget n.toNat s with ⟨fs, hn, hu⟩ | ⟨fs, hn, hu⟩
  · have hfunc : ∀ v : Pin, v.func = .gpio → (if fs = [] then v else Pin.idle).func = .gpio := by
      intro v hv
      split
      · exact hv
      · rfl
    exact ⟨_, fs, exec_writeReg_exhausted w n fs hs hn hu, rfl, hfunc _ hscl, hfunc _ hsda, rfl, rfl, rfl, rfl,
      .inl ⟨rfl, rfl, hn, hu, rfl⟩⟩
  · exact ⟨_, fs, exec_writeReg_succeeded w n fs hs hn hu, rfl, rfl, rfl, rfl, rfl, rfl, rfl,
      .inr ⟨rfl, toNat_attempts hn, hn, hu, rfl⟩⟩

/-- Settles O33: the waits of the events of the two ends. -/
theorem writeRegWaits : Obligations.WriteRegWaits :=
  ⟨fun w n fs s hs hn hu =>
      ⟨_, _, exec_writeReg_exhausted w n fs hs hn hu, rfl, totalWait_exhausted s.cfg w fs⟩,
    fun w n fs s hs hn hu =>
      ⟨_, _, exec_writeReg_succeeded w n fs hs hn hu, rfl, totalWait_succeeded s.cfg w fs⟩⟩

/-- Settles O34: equal coming answers bring both states to the same end, which reads no old register; only without an
attempt do the pins and LAST_ACK stay. -/
theorem writeRegReadsNoOldState : Obligations.WriteRegReadsNoOldState := by
  intro w n s s' hs hs' hcfg hanswers hreads
  have hupcoming : ∀ m, s'.upcoming m = s.upcoming m := fun m =>
    upcoming_congr s' s m hanswers.symm hreads.symm
  rcases spend_budget n.toNat s with ⟨fs, hn, hu⟩ | ⟨fs, hn, hu⟩
  · refine ⟨_, _, _, exec_writeReg_exhausted w n fs hs hn hu,
      exec_writeReg_exhausted w n fs hs' hn ((hupcoming _).trans hu), rfl, by rw [hcfg], rfl, rfl, by rw [hanswers],
      by rw [hreads], fun hzero => ?_⟩
    have hfs : fs ≠ [] := by
      rintro rfl
      exact hzero (BitVec.eq_of_toNat_eq hn.symm)
    simp only [hfs, if_false, and_self]
  · exact ⟨_, _, _, exec_writeReg_succeeded w n fs hs hn hu,
      exec_writeReg_succeeded w n fs hs' hn ((hupcoming _).trans hu), rfl, by rw [hcfg], rfl, rfl, by rw [hanswers],
      by rw [hreads], fun _ => ⟨rfl, rfl, rfl⟩⟩

end Sys2Proof.Machine
end

section
/-! PROOFS. Claiming and releasing the bus (42_orchestrator.md R160 to R162), the three ends of a bring-up (R150, R163 to
R173) with what an observer reads off their traces (R173, R176) and their independence from older state (R174), and how a
run stops (R151, R171; 60_exceptions.md R205). -/

namespace Sys2Proof.Machine

/-! ### Claim and release (R160 to R162) -/

theorem exec_claimBus (s : State) : exec .claimBus s = .next (claimBusBody s) := rfl

theorem exec_releaseBus (s : State) : exec .releaseBus s = .next (releaseBusBody s) := rfl

/-- Settles O36: the whole next state of `ClaimBus`. -/
theorem claimBusResult : Obligations.ClaimBusResult := fun s =>
  ⟨claimBusBody s, exec_claimBus s, (claimed_iff _).mpr (by rw [claimBusBody_eq]; exact ⟨rfl, rfl⟩),
    claimBusBody_eq s⟩

/-- Settles O37: the whole next state of `ReleaseBus`. -/
theorem releaseBusResult : Obligations.ReleaseBusResult := fun s =>
  ⟨releaseBusBody s, exec_releaseBus s, by rw [releaseBusBody_eq]; rfl, releaseBusBody_eq s⟩

/-! ### The three ends of BRINGUP (R150, R166, R168, R172) -/

theorem exec_bringup_idle {s : State} (hs : s.orch = .idle) : exec .bringup s = .next (bringupBody s) :=
  if_pos hs

theorem exec_bringup_of_body {s t : State} (hs : s.orch = .idle) (ht : bringupBody s = t) :
    exec .bringup s = .next t := by
  rw [exec_bringup_idle hs, ht]

theorem exec_bringup_busy {s : State} (hs : s.orch ≠ .idle) : exec .bringup s = .next (raiseFault .reentry s) :=
  if_neg hs

/-- Settles O38: both transactions succeed. -/
theorem bringupSucceeds : Obligations.BringupSucceeds := by
  intro s vs es hs hv he hu
  rw [exec_bringup_idle hs, bringupBody_succeeds s vs es hv he hu]
  simp only [State.bringupEnd, voltagePart, enablePart, finishEvents, List.append_assoc]

/-- Settles O39: ProgramVoltage exhausts a budget of at least one attempt. -/
theorem bringupVoltageFails : Obligations.BringupVoltageFails := by
  intro s vs hs hne hv hu
  rw [exec_bringup_idle hs, bringupBody_voltageFails s vs hv hu]
  simp only [State.bringupEnd, voltagePart, fatalEvents, hne, if_false, List.append_assoc]

/-- Settles O40: ProgramVoltage succeeds and ProgramEnable exhausts a budget of at least one attempt. -/
theorem bringupEnableFails : Obligations.BringupEnableFails := by
  intro s vs es hs hne hv he hu
  rw [exec_bringup_idle hs, bringupBody_enableFails s vs es hv he hu]
  simp only [State.bringupEnd, voltagePart, enablePart, fatalEvents, hne, if_false, List.append_assoc]

/-! ### What an observer reads off a bring-up (R163, R173) -/

/-- The events mark the entry of `steps`, make the control writes `writes` and do not halt. -/
structure Shows (es : List Event) (steps : List OrchState) (writes : List MmioPair) : Prop where
  marks : markers es = steps
  writes : mmioWrites es = writes
  noHalt : Event.halt ∉ es

theorem Shows.append {es fs : List Event} {a b : List OrchState} {c d : List MmioPair} (he : Shows es a c)
    (hf : Shows fs b d) : Shows (es ++ fs) (a ++ b) (c ++ d) where
  marks := by rw [markers_append, he.marks, hf.marks]
  writes := by rw [mmioWrites_append, he.writes, hf.writes]
  noHalt := by simp [he.noHalt, hf.noHalt]

theorem shows_step (st : OrchState) : Shows [.step st] [st] [] := ⟨rfl, rfl, by simp⟩

theorem shows_delay (d : Micros) : Shows [.delay d] [] [] := ⟨rfl, rfl, by simp⟩

theorem shows_claim (d : Micros) : Shows (claimEvents d) [] [] := ⟨rfl, rfl, by simp [claimEvents]⟩

theorem shows_release : Shows releaseEvents [] [] := ⟨rfl, rfl, by simp [releaseEvents]⟩

theorem shows_mmio (ws : List MmioPair) : Shows (mmioEvents ws) [] ws := by
  induction ws with
  | nil => exact ⟨rfl, rfl, by simp [mmioEvents]⟩
  | cons w ws ih => exact Shows.append (es := [.mmioWrite w.addr w.value]) ⟨rfl, rfl, by simp⟩ ih

theorem shows_finish (p : Params) :
    Shows (finishEvents p) [.releaseBus, .enableClocks, .deassertResets, .done] (p.clkWrites ++ p.rstWrites) := by
  have hclk := ((shows_step .enableClocks).append (shows_mmio p.clkWrites)).append (shows_delay p.clkSettleUs)
  have hrst := ((shows_step .deassertResets).append (shows_mmio p.rstWrites)).append (shows_delay p.rstSettleUs)
  have h := ((((shows_step .releaseBus).append shows_release).append hclk).append hrst).append (shows_step .done)
  simpa [finishEvents] using h

/-- What a command other than BRINGUP appends shows nothing of the orchestrator. -/
theorem shows_of_exec {i : Instr} {s t : State} {es : List Event} (h : exec i s = .next t)
    (htrace : t.trace = s.trace ++ es) (hi : i ≠ .bringup) : Shows es [] [] := by
  obtain ⟨-, -, es', htrace', hmarkers, hwrites, hhalt⟩ := onlyBringupMovesState i s t hi h
  obtain rfl : es = es' := List.append_cancel_left (htrace.symm.trans htrace')
  exact ⟨hmarkers, hwrites, hhalt⟩

section Transactions

variable {s : State} (hs : s.claimed = true) (w : RegWrite) {n : Count} {fs : List NackPoint}
include hs

/-- A transaction of BRINGUP emits what WRITE_REG emits. -/
theorem shows_exhausted (hn : fs.length = n.toNat) (hu : s.upcoming (nackSamples fs).length = nackSamples fs) :
    Shows (exhaustedEvents s.cfg w fs) [] [] :=
  shows_of_exec (exec_writeReg_exhausted w n fs hs hn hu) rfl nofun

theorem shows_succeeded (hn : fs.length < n.toNat)
    (hu : s.upcoming (nackSamples fs ++ ackedSamples).length = nackSamples fs ++ ackedSamples) :
    Shows (succeededEvents s.cfg w fs) [] [] :=
  shows_of_exec (exec_writeReg_succeeded w n fs hs hn hu) rfl nofun

end Transactions

theorem shows_voltagePart (p : Params) {tx : List Event} (htx : Shows tx [] []) :
    Shows (voltagePart p tx) [.claimBus, .programVoltage] [] :=
  (((shows_step .claimBus).append (shows_claim p.claimSettleUs)).append (shows_step .programVoltage)).append htx

theorem shows_enablePart (p : Params) {tx : List Event} (htx : Shows tx [] []) :
    Shows (enablePart p tx) [.programEnable] [] :=
  ((shows_delay p.vselSettleUs).append (shows_step .programEnable)).append htx

theorem atVoltage_claimed (s : State) : s.atVoltage.claimed = true := by
  rw [atVoltage_eq]
  rfl

theorem atEnable_claimed (s : State) (vs : List NackPoint) : (s.atEnable vs).claimed = true := rfl

theorem shows_voltageSucceeded {s : State} {vs : List NackPoint} (hn : vs.length < s.cfg.vselAttempts.toNat)
    (hu : s.upcoming (nackSamples vs ++ ackedSamples).length = nackSamples vs ++ ackedSamples) :
    Shows (voltagePart s.cfg (succeededEvents s.cfg (vselWrite s.cfg) vs)) [.claimBus, .programVoltage] [] :=
  shows_voltagePart s.cfg (shows_succeeded (atVoltage_claimed s) _ hn ((upcoming_atVoltage s _).trans hu))

/-! ### Done or Fatal -/

theorem releaseEvents_in_finish (p : Params) (es : List Event) : releaseEvents <:+: es ++ finishEvents p :=
  List.IsInfix.trans ⟨[.step .releaseBus], _, by simp only [finishEvents, List.append_assoc]; rfl⟩
    (List.suffix_append es _).isInfix

theorem releaseEvents_in_fatal (es : List Event) : releaseEvents <:+: es ++ fatalEvents :=
  List.IsInfix.trans ⟨[.step .releaseBus], _, rfl⟩ (List.suffix_append es _).isInfix

/-- The fatal path adds its two markers, no control write, and the halt as the last event. -/
theorem Shows.fatal {es : List Event} {steps : List OrchState} (h : Shows es steps []) :
    markers (es ++ fatalEvents) = steps ++ [.releaseBus, .fatal] ∧ mmioWrites (es ++ fatalEvents) = []
      ∧ (es ++ fatalEvents).getLast? = some .halt := by
  refine ⟨?_, ?_, ?_⟩
  · rw [markers_append, h.marks]; rfl
  · rw [mmioWrites_append, h.writes]; rfl
  · rw [List.getLast?_append]; rfl

/-- Settles O41: the part up to the last transaction that ran shows its markers and no control write, and the rest is the
fatal path or the finish. -/
theorem bringupEndsDoneOrFatal : Obligations.BringupEndsDoneOrFatal := by
  intro s hs
  rcases bringupBody_cases s with ⟨vs, hv, hu⟩ | ⟨vs, es, hv, he, hu⟩ | ⟨vs, es, hv, he, hu⟩
  · have hshow := shows_voltagePart s.cfg
      (shows_exhausted (atVoltage_claimed s) (vselWrite s.cfg) hv ((upcoming_atVoltage s _).trans hu))
    obtain ⟨hmarkers, hwrites, hlast⟩ := hshow.fatal
    exact ⟨_, _, exec_bringup_of_body hs (bringupBody_voltageFails s vs hv hu), rfl, releaseEvents_in_fatal _, rfl,
      rfl, .inr ⟨rfl, rfl, rfl, hlast, .inl hmarkers, hwrites⟩⟩
  · obtain ⟨huv, hue⟩ := upcoming_append hu
    have hshow := (shows_voltageSucceeded hv huv).append (shows_enablePart s.cfg
      (shows_exhausted (atEnable_claimed s vs) (enWrite s.cfg) he ((upcoming_atEnable s vs _).trans hue)))
    obtain ⟨hmarkers, hwrites, hlast⟩ := hshow.fatal
    exact ⟨_, _, exec_bringup_of_body hs (bringupBody_enableFails s vs es hv he hu), rfl, releaseEvents_in_fatal _, rfl,
      rfl, .inr ⟨rfl, rfl, rfl, hlast, .inr hmarkers, hwrites⟩⟩
  · obtain ⟨huv, hue⟩ := upcoming_append hu
    have hshow := (((shows_voltageSucceeded hv huv).append (shows_enablePart s.cfg
      (shows_succeeded (atEnable_claimed s vs) (enWrite s.cfg) he ((upcoming_atEnable s vs _).trans hue)))).append
      (shows_delay s.cfg.enSettleUs)).append (shows_finish s.cfg)
    exact ⟨_, _, exec_bringup_of_body hs (bringupBody_succeeds s vs es hv he hu), rfl, releaseEvents_in_finish _ _, rfl,
      rfl, .inl ⟨rfl, rfl, rfl, hshow.noHalt, hshow.marks, hshow.writes⟩⟩

/-! ### Waits (R176) -/

theorem totalWait_step (st : OrchState) : totalWait [.step st] = 0 := rfl

theorem totalWait_voltagePart (p : Params) (tx : List Event) :
    totalWait (voltagePart p tx) = p.claimSettleUs.toNat + totalWait tx := by
  simp only [voltagePart, totalWait_append, totalWait_step, totalWait_claim, Nat.zero_add, Nat.add_zero]

theorem totalWait_enablePart (p : Params) (tx : List Event) :
    totalWait (enablePart p tx) = p.vselSettleUs.toNat + totalWait tx := by
  simp only [enablePart, totalWait_append, totalWait_step, totalWait_delay, Nat.add_zero]

theorem totalWait_finish (p : Params) :
    totalWait (finishEvents p) = p.clkSettleUs.toNat + p.rstSettleUs.toNat := by
  simp only [finishEvents, totalWait_append, totalWait_step, totalWait_release, totalWait_mmio, totalWait_delay,
    Nat.zero_add, Nat.add_zero]

/-- Settles O42: the waits of the parts of a successful bring-up. -/
theorem bringupWaits : Obligations.BringupWaits := by
  intro s vs es hs hv he hu
  refine ⟨_, _, exec_bringup_of_body hs (bringupBody_succeeds s vs es hv he hu), rfl, ?_⟩
  simp only [totalWait_append, totalWait_voltagePart, totalWait_enablePart, totalWait_succeeded, totalWait_delay,
    totalWait_finish, Nat.add_assoc]

/-! ### Independence from older state (R174) -/

/-- Settles O43: equal coming answers bring both states to the same one of the three ends, whose events, registers and
pins the configuration and those answers alone determine. -/
theorem bringupReadsNoFeedback : Obligations.BringupReadsNoFeedback := by
  intro s s' hs hs' hcfg hanswers hreads
  rw [exec_bringup_idle hs, exec_bringup_idle hs']
  have hupcoming : ∀ n, s'.upcoming n = s.upcoming n := fun n =>
    upcoming_congr s' s n hanswers.symm hreads.symm
  rcases bringupBody_cases s with ⟨vs, hv, hu⟩ | ⟨vs, es, hv, he, hu⟩ | ⟨vs, es, hv, he, hu⟩
  · rw [bringupBody_voltageFails s vs hv hu,
      bringupBody_voltageFails s' vs (hcfg ▸ hv) ((hupcoming _).trans hu), ← hcfg]
    exact ⟨_, _, _, rfl, rfl, rfl, rfl, rfl, rfl, rfl, rfl, rfl⟩
  · rw [bringupBody_enableFails s vs es hv he hu,
      bringupBody_enableFails s' vs es (hcfg ▸ hv) (hcfg ▸ he) ((hupcoming _).trans hu), ← hcfg]
    exact ⟨_, _, _, rfl, rfl, rfl, rfl, rfl, rfl, rfl, rfl, rfl⟩
  · rw [bringupBody_succeeds s vs es hv he hu,
      bringupBody_succeeds s' vs es (hcfg ▸ hv) (hcfg ▸ he) ((hupcoming _).trans hu), ← hcfg]
    exact ⟨_, _, _, rfl, rfl, rfl, rfl, rfl, rfl, rfl, rfl, rfl⟩

/-! ### How a run stops (R151, R171; 60_exceptions.md R205) -/

/-- A block that runs, with STATE Idle or Done, is consistent whatever its FAULT. -/
theorem stopConsistent_of_running {s : State} (hhalted : s.halted = false) (horch : s.orch = .idle ∨ s.orch = .done) :
    StopConsistent s := by
  have hfatal : s.orch ≠ .fatal := by
    rcases horch with h | h <;> rw [h] <;> nofun
  have hrun : s.halted ≠ true := Bool.eq_false_iff.mp hhalted
  exact ⟨iff_of_false hrun hfatal, fun h => absurd h hrun, horch.imp_right .inl⟩

theorem running_of_stopConsistent {s : State} (hs : StopConsistent s) (hhalted : s.halted = false) :
    s.orch = .idle ∨ s.orch = .done := by
  obtain ⟨hfatal, -, horch | horch | horch⟩ := hs
  · exact .inl horch
  · exact .inr horch
  · simp [hfatal.mpr horch] at hhalted

theorem bringup_stopConsistent {s t : State} (hhalted : s.halted = false) (hfault : s.faultCode = .none)
    (horch : s.orch = .idle ∨ s.orch = .done) (h : exec .bringup s = .next t) : StopConsistent t := by
  by_cases hidle : s.orch = .idle
  · obtain ⟨u, es, hu, -, -, -, -, hend⟩ := bringupEndsDoneOrFatal s hidle
    obtain rfl : u = t := Host.Outcome.next.inj (hu.symm.trans h)
    rcases hend with ⟨hdone, -, hsame, -⟩ | ⟨hfatal, -, hhalt, -⟩
    · exact stopConsistent_of_running (hsame.trans hhalted) (.inr hdone)
    · have hkeep : u.faultCode = .none := by
        rw [← Host.Outcome.next.inj ((exec_bringup_idle hidle).symm.trans h)]
        exact (Runs.refl .bringup s).bringupBody.faultCode.trans hfault
      exact ⟨iff_of_true hhalt hfatal, fun _ => hkeep, .inr (.inr hfatal)⟩
  · obtain rfl := Host.Outcome.next.inj ((exec_bringup_busy hidle).symm.trans h)
    exact stopConsistent_of_running hhalted horch

/-- Settles O49: only a running block steps, only BRINGUP moves STATE or HALTED, and it ends in Done still running or in
Fatal halted and without a fault. -/
theorem stepKeepsStopConsistency : Obligations.StepKeepsStopConsistency := by
  intro s t hs h
  obtain ⟨hhalted, hfault, hcases⟩ := step_cases h
  have horch := running_of_stopConsistent hs hhalted
  obtain ⟨-, rfl⟩ | ⟨c, rest, -, ⟨why, -, rfl⟩ | ⟨i, -, hexec⟩⟩ := hcases
  · exact hs
  · exact stopConsistent_of_running hhalted horch
  · by_cases hi : i = .bringup
    · subst hi
      exact bringup_stopConsistent (s := { s with port := rest }) hhalted hfault horch hexec
    · obtain ⟨hstate, hhalt, -⟩ := onlyBringupMovesState i _ t hi hexec
      exact stopConsistent_of_running (hhalt.trans hhalted) (hstate ▸ horch)

end Sys2Proof.Machine
end

section
/-! PROOFS. The three faults and the bounded write (60_exceptions.md): which words raise ILLEGAL_CMD (R202), when a command
raises a fault and that it then does nothing else (R200, R203, R204, R207), what a stopped block does with a word presented
to it (R205), and the bound on a WRITE_REG (R216). -/

namespace Sys2Proof

/-! ### Words that no row matches (30_encoding.md R74; R202) -/

theorem toNat_fieldOp (c : CmdWord) : (fieldOp c).toNat = c.toNat % 16 := by
  rw [fieldOp, BitVec.extractLsb'_toNat, Nat.shiftRight_zero]

theorem fieldOp_encode (i : Instr) : fieldOp (encode i) = i.mnemonic.opcode := by
  cases i <;> exact fieldOp_packCmd ..

/-- A word that matches a row has the row's opcode in its low four bits. -/
theorem opcode_of_matches {r : OpRow} (hr : r ∈ opcodeTable) {c : CmdWord} (hc : c &&& r.mask = r.pattern) :
    c.toNat % 16 = r.mnemonic.opcode.toNat := by
  have henc : encode (operandsOf r.mnemonic c) = c := (row_matches_iff hr c).mp hc
  rw [← toNat_fieldOp, ← henc, fieldOp_encode, operandsOf_mnemonic]

theorem opcode_assigned (m : Mnemonic) : 1 ≤ m.opcode.toNat ∧ m.opcode.toNat ≤ 9 := by
  cases m <;> decide

theorem row_of_opcode : ∀ r ∈ opcodeTable, ∀ q ∈ opcodeTable,
    r.mnemonic.opcode.toNat = q.mnemonic.opcode.toNat → r = q := by decide

theorem no_row_of_reservedOpcode {c : CmdWord} (h : c.toNat % 16 = 0 ∨ 10 ≤ c.toNat % 16) :
    ∀ q ∈ opcodeTable, c &&& q.mask ≠ q.pattern := by
  intro q hq hc
  have hop := opcode_of_matches hq hc
  have hrange := opcode_assigned q.mnemonic
  omega

/-- The row of the word's opcode is the only one that it could match. -/
theorem no_row_of_unusedField {c : CmdWord} {r : OpRow} (hr : r ∈ opcodeTable)
    (hop : c.toNat % 16 = r.mnemonic.opcode.toNat) (hne : c &&& r.mask ≠ r.pattern) :
    ∀ q ∈ opcodeTable, c &&& q.mask ≠ q.pattern := by
  intro q hq hc
  obtain rfl := row_of_opcode r hr q hq (hop.symm.trans (opcode_of_matches hq hc))
  exact hne hc

/-- Settles O5: such a word matches no row, and one that matches none is rejected. -/
theorem illegalWordsRaiseIllegalCmd : Obligations.IllegalWordsRaiseIllegalCmd := by
  refine ⟨rfl, fun s c rest hh hf hp hword => ?_⟩
  obtain ⟨-, -, hreject⟩ := rowsDecideDecoding c
  have hnone : ∀ q ∈ opcodeTable, c &&& q.mask ≠ q.pattern := by
    rcases hword with hreserved | ⟨r, hr, hop, hne⟩
    · exact no_row_of_reservedOpcode hreserved
    · exact no_row_of_unusedField hr hop hne
  obtain ⟨-, hstep⟩ := hreject hnone
  exact hstep s rest hh hf hp

end Sys2Proof

namespace Sys2Proof.Machine

/-! ### When a command raises a fault (R200, R203, R204) -/

/-- A command leaves FAULT as it was, or has done nothing but raise NOT_CLAIMED or REENTRY, each for its one cause. -/
theorem exec_fault_cases {i : Instr} {s t : State} (h : exec i s = .next t) :
    t.faultCode = s.faultCode
      ∨ (isBusCommand i ∧ s.claimed = false ∧ t = raiseFault .notClaimed s)
      ∨ (i = .bringup ∧ s.orch ≠ .idle ∧ t = raiseFault .reentry s) := by
  rcases exec_cases i s with ⟨hi, -, he⟩ | ⟨hi, hc, he⟩ | ⟨rfl, he⟩ | ⟨rfl, he⟩ | ⟨rfl, -, he⟩ | ⟨hi, ho, he⟩ <;>
    obtain rfl := Host.Outcome.next.inj (he.symm.trans h)
  · exact .inl (busBody_runs hi s).faultCode
  · exact .inr (.inl ⟨hi, hc, rfl⟩)
  · exact .inl (Op.claim.apply_faultCode s)
  · exact .inl (Op.release.apply_faultCode s)
  · exact .inl (Runs.refl .bringup s).bringupBody.faultCode
  · exact .inr (.inr ⟨hi, ho, rfl⟩)

/-- A command that changes FAULT has only raised a fault. -/
theorem exec_raises {i : Instr} {s t : State} (h : exec i s = .next t) (hne : t.faultCode ≠ s.faultCode) :
    ∃ code, code ≠ .none ∧ t = raiseFault code s :=
  (exec_runs h).resolve_left fun hruns => hne hruns.faultCode

theorem unclaimed_of_func {s : State} (h : s.scl.func ≠ .gpio ∨ s.sda.func ≠ .gpio) : s.claimed = false := by
  rw [Bool.eq_false_iff, Ne, claimed_iff, not_and_or]
  exact h

/-- Settles O14: a bus command checks both pins, and the only fault of BRINGUP is REENTRY. -/
theorem notClaimedFault : Obligations.NotClaimedFault := by
  refine ⟨rfl, fun i s hi hfunc => exec_of_unclaimed hi (unclaimed_of_func hfunc), fun s t h => ?_⟩
  rcases exec_fault_cases h with hsame | ⟨hbus, -, -⟩ | ⟨-, -, rfl⟩
  · exact .inl hsame
  · simp [isBusCommand, Instr.mnemonic] at hbus
  · exact .inr rfl

/-- Settles O15: the check of BRINGUP. -/
theorem reentryFault : Obligations.ReentryFault := ⟨rfl, fun _ => exec_bringup_busy⟩

/-! ### A stopped block (R205) -/

theorem stopReason_of_stopped {s : State} (h : s.halted = true ∨ s.faultCode ≠ .none) :
    ∃ r, stopReason s = some r := by
  rcases hhalted : s.halted with _ | _
  · exact ⟨_, stopReason_faulted hhalted (h.resolve_left (by simp [hhalted]))⟩
  · exact ⟨_, stopReason_halted hhalted⟩

theorem step_of_stopped {s : State} (h : s.halted = true ∨ s.faultCode ≠ .none) : ∃ r, step s = .fault r := by
  obtain ⟨r, hr⟩ := stopReason_of_stopped h
  exact ⟨r, step_stopped hr⟩

/-- The reset state keeps the configuration and the answers, which presenting a word does not touch. -/
theorem platformReset_hostPresent (c : CmdWord) (s : State) :
    platformReset (hostPresent c s) = platformReset s := by
  simp only [platformReset, hostPresent_cfg, hostPresent_answers, hostPresent_reads]

/-- Settles O11: a stopped block ignores the word, and after a reset the port is empty, so that the block waits. -/
theorem wordsPresentedWhileStoppedNeverRun : Obligations.WordsPresentedWhileStoppedNeverRun := by
  refine fun c s => ⟨fun hstop => ?_, fun hh hf => hostPresent_running c (stopReason_none hh hf), ?_⟩
  · obtain ⟨r, hr⟩ := stopReason_of_stopped hstop
    exact hostPresent_stopped c hr
  · rw [platformReset_hostPresent]
    exact step_waits (platformReset_halted s) (platformReset_faultCode s) (platformReset_port s)

/-! ### Faults are precise and ordered (R200, R207) -/

/-- A step that ends with a fault has rejected its word or run a command that raised the fault. -/
theorem step_raises {s t : State} (h : step s = .next t) (hfault : t.faultCode ≠ .none) :
    ∃ code, t = raiseFault code { s with port := s.port.drop 1 } := by
  obtain ⟨-, hnone, ⟨-, rfl⟩ | ⟨c, rest, hport, ⟨why, -, rfl⟩ | ⟨i, -, hexec⟩⟩⟩ := step_cases h
  · exact absurd hnone hfault
  · exact ⟨.illegalCmd, by rw [hport, List.drop_one, List.tail_cons]⟩
  · obtain ⟨code, -, rfl⟩ := exec_raises hexec (fun hsame => hfault (hsame.trans hnone))
    exact ⟨code, by rw [hport, List.drop_one, List.tail_cons]⟩

/-- Settles O12: what changes FAULT, in a command or in a step, is the raising of a fault alone. -/
theorem faultsArePrecise : Obligations.FaultsArePrecise := by
  refine ⟨fun i s t h hne => ?_, fun s t h hfault => ?_, platformReset_faultCode⟩
  · obtain ⟨code, hcode, rfl⟩ := exec_raises h hne
    exact ⟨rfl, hcode, step_of_stopped (.inr hcode)⟩
  · obtain ⟨code, rfl⟩ := step_raises h hfault
    rfl

/-- Settles O13: a step accepts, then decodes, then runs the command, whose own check comes before its first event. -/
theorem faultPriority : Obligations.FaultPriority := by
  refine ⟨fun s hstop t h => ?_, fun s c rest why hh hf hp hd => step_illegal hh hf hp hd,
    fun s t c rest i hh hf hp hd h => ?_, fun i s t hf h hfault => ?_⟩
  · obtain ⟨r, hr⟩ := step_of_stopped hstop
    cases hr.symm.trans h
  · rw [step_instr hh hf hp hd] at h
    rcases exec_fault_cases h with hsame | ⟨hbus, hc, rfl⟩ | ⟨hi, ho, rfl⟩
    · exact .inl (hsame.trans hf)
    · exact .inr (.inl ⟨rfl, hc, hbus⟩)
    · exact .inr (.inr ⟨rfl, ho, hi⟩)
  · obtain ⟨code, -, rfl⟩ := exec_raises h (fun hsame => hfault (hsame.trans hf))
    rfl

/-! ### The bound on a WRITE_REG (R216) -/

/-- The events hold at most so many reads, and are at most so many. -/
structure AtMost (nRead nAll : Nat) (es : List Event) : Prop where
  reads : es.countP Event.isRead ≤ nRead
  total : es.length ≤ nAll

theorem AtMost.append {m n m' n' : Nat} {es fs : List Event} (he : AtMost m n es) (hf : AtMost m' n' fs) :
    AtMost (m + m') (n + n') (es ++ fs) where
  reads := by rw [List.countP_append]; exact Nat.add_le_add he.reads hf.reads
  total := by rw [List.length_append]; exact Nat.add_le_add he.total hf.total

theorem AtMost.mono {m n m' n' : Nat} {es : List Event} (h : AtMost m n es) (hm : m ≤ m') (hn : n ≤ n') :
    AtMost m' n' es := ⟨h.reads.trans hm, h.total.trans hn⟩

theorem CountsTo.atMost {h : Micros} {es : List Event} {nDelay nRead nGpio nAll : Nat}
    (hc : CountsTo h es nDelay nRead nGpio nAll) : AtMost nRead nAll es := ⟨hc.reads.le, hc.total.le⟩

/-- A byte has at most eight 0 bits, each of which costs one event more than a 1 bit (40_bit_driver.md R113). -/
theorem atMost_shift (h : Micros) (v : Byte) (r : Level) : AtMost 1 74 (shiftEvents h v r) :=
  (countsTo_shift h v r).atMost.mono le_rfl (Nat.add_le_add_left (zeroBits_le v) 66)

/-- START, three bytes and STOP. -/
theorem atMost_acked (h : Micros) (w : RegWrite) : AtMost 3 239 (ackedEvents h w) :=
  ((((countsTo_start h).atMost.append (atMost_shift h _ false)).append (atMost_shift h _ false)).append
    (atMost_shift h _ false)).append (countsTo_stop h).atMost

/-- START, up to three bytes and STOP. -/
theorem atMost_failed (h : Micros) (w : RegWrite) (f : NackPoint) : AtMost 3 239 (failedEvents h w f) := by
  have haddress r := (countsTo_start h).atMost.append (atMost_shift h (addressByte w.addr7) r)
  have hregister r := (haddress false).append (atMost_shift h w.reg r)
  have hstop := (countsTo_stop h).atMost
  cases f with
  | address => exact ((haddress true).append hstop).mono (by decide) (by decide)
  | register => exact ((hregister true).append hstop).mono (by decide) (by decide)
  | value => exact ((hregister false).append (atMost_shift h w.value true)).append hstop

/-- Attempts with a wait between them: one event more for each attempt but the last. -/
theorem atMost_intercalate (d : Micros) {xs : List (List Event)} (hxs : ∀ x ∈ xs, AtMost 3 239 x) :
    AtMost (3 * xs.length) (240 * xs.length) ([Event.delay d].intercalate xs) := by
  induction xs with
  | nil => exact ⟨le_rfl, le_rfl⟩
  | cons x xs ih =>
    have hx := hxs x List.mem_cons_self
    by_cases hne : xs = []
    · subst hne
      simpa [List.intercalate] using hx.mono le_rfl (by decide : 239 ≤ 240)
    · have hwait : AtMost 0 1 [Event.delay d] := ⟨le_rfl, le_rfl⟩
      have hrest := ih fun y hy => hxs y (List.mem_cons_of_mem x hy)
      rw [intercalate_cons_ne _ _ _ hne, List.length_cons, Nat.mul_succ, Nat.mul_succ, Nat.add_comm,
        Nat.add_comm (240 * _)]
      exact (hx.append hwait).append hrest

theorem atMost_exhausted (p : Params) (w : RegWrite) (fs : List NackPoint) :
    AtMost (3 * fs.length) (240 * fs.length) (exhaustedEvents p w fs) := by
  have hb := atMost_intercalate p.backoffUs (xs := fs.map (failedEvents (halfUs p) w))
    (List.forall_mem_map.mpr fun f _ => atMost_failed (halfUs p) w f)
  rwa [List.length_map] at hb

theorem atMost_succeeded (p : Params) (w : RegWrite) (fs : List NackPoint) :
    AtMost (3 * (fs.length + 1)) (240 * (fs.length + 1)) (succeededEvents p w fs) := by
  have hb := atMost_intercalate p.backoffUs (xs := fs.map (failedEvents (halfUs p) w) ++ [ackedEvents (halfUs p) w])
    (List.forall_mem_append.mpr ⟨List.forall_mem_map.mpr fun f _ => atMost_failed (halfUs p) w f,
      List.forall_mem_singleton.mpr (atMost_acked (halfUs p) w)⟩)
  rwa [List.length_append, List.length_map, List.length_singleton] at hb

/-- Settles O35: a write ends in one of its two ways, and the attempts of either are at most the budget. -/
theorem writeRegBounded : Obligations.WriteRegBounded := by
  intro w n s hs
  obtain ⟨t, fs, hexec, -, -, -, -, -, -, -, hend⟩ := writeRegAlwaysCompletes w n s hs
  rcases hend with ⟨-, hused, hn, -, htrace⟩ | ⟨-, hused, hn, -, htrace⟩
  · have hb := atMost_exhausted s.cfg w fs
    rw [hn] at hb
    exact ⟨t, _, hexec, htrace, by rw [hused], hb.reads, hb.total⟩
  · have hb := (atMost_succeeded s.cfg w fs).mono (Nat.mul_le_mul_left 3 hn) (Nat.mul_le_mul_left 240 hn)
    exact ⟨t, _, hexec, htrace, hused.trans_le hn, hb.reads, hb.total⟩

end Sys2Proof.Machine
end

section
/-! PROOFS. The stale-latch hazard of a drive low (70_reset_and_hazards.md R243). -/

namespace Sys2Proof.Machine

/-- Turning SDA around is one event on the direction alone: the latch stays what it was (10_state.md R23). -/
theorem replayPins_setDir_sda (d : Dir) (v : Pin × Pin) :
    replayPins v [.setDir .sda d] = (v.1, { v.2 with dir := .dir d }) := rfl

/-- Settles O25: DRIVE_SDA 0 sets the direction before it writes the latch, and an output pin in GPIO function contributes
its latch, here still the old one. -/
theorem staleLatchGlitch : Obligations.StaleLatchGlitch := by
  intro s hs
  obtain ⟨-, hdriveLow, -⟩ := driveSdaResult
  refine ⟨_, hdriveLow s hs, List.append_cons s.trace _ _, ?_⟩
  have hgpio : s.sda.func = .gpio := ((claimed_iff s).mp hs).2
  rw [replayPins_setDir_sda]
  rcases hlatch : s.sda.latch with _ | _ | _
  case unspecified => simp [Pin.contribution, hgpio, hlatch]
  case level.false => simp [Pin.contribution, hgpio, hlatch]
  case level.true => simp [Pin.contribution, hgpio, hlatch]

end Sys2Proof.Machine
end

section
/-! PROOFS. The steps that accept no word: of a block that waits (70_reset_and_hazards.md R230) and of a block that is
stopped (60_exceptions.md R205, R208). -/

namespace Sys2Proof.Machine

/-- Settles O9: a running block with an empty port has no word to accept, so its step is the wait. -/
theorem stepWaitsForWord : Obligations.StepWaitsForWord :=
  fun _ hh hf hp => step_waits hh hf hp

/-- Settles O10: a step looks for a reason to stop before it looks at the port, and HALTED before FAULT. -/
theorem stoppedBlockHasNoStep : Obligations.StoppedBlockHasNoStep := by
  refine fun s => ⟨fun hhalted => ?_, fun hh hfault => ?_⟩
  · exact step_stopped (stopReason_halted hhalted)
  · exact step_stopped (stopReason_faulted hh hfault)

end Sys2Proof.Machine
end
